-- ==== Sys2Proof/Word.lean ====
section
/-!
DEFINITION. The words of the block: bytes, command words, operands and results (spec/00_scope.md R7, R9).
-/
namespace Sys2Proof

/-- One byte of a Byte Channel or of an element buffer (R6, R29). -/
abbrev Byte := BitVec 8

/-- A command word `CMD` or a channel failure code, 32 bits (R7). -/
abbrev Word32 := BitVec 32

/-- An operand `OPV` or a result `RES`, 64 bits (R7). -/
abbrev Word64 := BitVec 64

end Sys2Proof
end

