-- ==== Sys2Proof/Syntax.lean ====
section
/-!
DEFINITION. The 26 commands of the opcode map (spec/30_encoding.md R104), with the operands the command word carries.
The 64-bit operand OPV "is not part of the instruction word, it accompanies every command" (R100): it stands in State.
-/
namespace Sys2Proof

/-- One constructor per row of spec/opcode_table.json. `len` and `scale` are the field `A`, `range` the field `B`:
"unsigned 8-bit integers, 0..255, used as they stand" (R105); a value outside the operation's legal range is a legal
encoding and an invalid argument. `wellFormed` says which values have an encoding. -/
inductive Instr where
  /-- `readBoolean()`, R147 -/
  | rbool
  /-- `readUnsignedBits(length)`, R148 -/
  | ru8 (len : Nat)
  /-- `readUnsignedShort(length)`, R149 -/
  | ru16 (len : Nat)
  /-- `readUnsignedInt(length)`, R150 -/
  | ru32 (len : Nat)
  /-- `readSignedInt(length)`, R151 -/
  | rs32 (len : Nat)
  /-- `readUnsignedLong(length)`, R152 -/
  | ru64 (len : Nat)
  /-- `readSignedLong(length)`, R153 -/
  | rs64 (len : Nat)
  /-- `readFloat()`, R180 -/
  | rf32
  /-- `readDouble()`, R181 -/
  | rf64
  /-- `readLengthPrefixedBytes(scale, range)`, R183 -/
  | rlpb (scale range : Nat)
  /-- reader `align(byteBoundary)`, R187 -/
  | ralign
  /-- reader `close()`, R188 -/
  | rclose
  /-- reader byte counter, R189 -/
  | rcnt
  /-- `writeBoolean(bool)`, R218 -/
  | wbool
  /-- `writeUnsignedBits(length, value)`, R219 -/
  | wu8 (len : Nat)
  /-- `writeUnsignedShort(length, value)`, R220 -/
  | wu16 (len : Nat)
  /-- `writeUnsignedInt(length, value)`, R221 -/
  | wu32 (len : Nat)
  /-- `writeSignedInt(length, value)`, R222 -/
  | ws32 (len : Nat)
  /-- `writeUnsignedLong(length, value)`, R223 -/
  | wu64 (len : Nat)
  /-- `writeSignedLong(length, value)`, R224 -/
  | ws64 (len : Nat)
  /-- `writeFloat(v)`, R250 -/
  | wf32
  /-- `writeDouble(v)`, R251 -/
  | wf64
  /-- `writeLengthPrefixedBytes(scale, range, bytes)`, R252 -/
  | wlpb (scale range : Nat)
  /-- writer `align(byteBoundary)`, R253 -/
  | walign
  /-- writer `close()`, R258 -/
  | wclose
  /-- writer byte counter, R259 -/
  | wcnt
  deriving DecidableEq, Repr

end Sys2Proof
end

