-- ==== Sys2Proof/WellFormed.lean ====
section
/-!
DEFINITION. Which instructions have an encoding: every operand of the command word fits its 8-bit field
(spec/30_encoding.md R101, R105).
-/
namespace Sys2Proof

/-- An operand of the command word fits an 8-bit field: 0..255 (R105). -/
def fitsField (x : Nat) : Bool := decide (x < 256)

/-- The instruction has a command word. A length, scale or range outside the operation's own range, "including 0, is a
legal encoding and an invalid argument" (R105), so it is well-formed. -/
def Instr.wellFormed (i : Instr) : Bool :=
  match i with
  | .rbool | .rf32 | .rf64 | .ralign | .rclose | .rcnt => true
  | .wbool | .wf32 | .wf64 | .walign | .wclose | .wcnt => true
  | .ru8 len | .ru16 len | .ru32 len | .rs32 len | .ru64 len | .rs64 len => fitsField len
  | .wu8 len | .wu16 len | .wu32 len | .ws32 len | .wu64 len | .ws64 len => fitsField len
  | .rlpb scale range | .wlpb scale range => fitsField scale && fitsField range

end Sys2Proof
end

