-- ==== Sys2Proof/Decode.lean ====
section
/-!
DEFINITION. The decoder of command words and the encoder, each from the encoding of spec/30_encoding.md R101, R102, R104;
the test `legalWord` states rule R106 on its own from the table's masks and matches.
A command word is one 32-bit value the host presents (R100): there is no instruction memory and so no byte order (R65).
-/
namespace Sys2Proof

/-- Why a command word is no legal encoding (R107). -/
inductive DecodeError where
  /-- `OP` is 0x00, 0x0E..0x7F, 0x80 or 0x8E..0xFF -/
  | unassignedOpcode
  /-- the reserved field `Z` is not zero -/
  | reservedNotZero
  /-- `A` is not zero in format N -/
  | unusedANotZero
  /-- `B` is not zero in format N or L -/
  | unusedBNotZero
  deriving DecidableEq, Repr

/-- The field `OP`, bits 31:24 (R101). -/
def fieldOp (cmd : Word32) : Nat := cmd.toNat / 2 ^ 24

/-- The field `A`, bits 23:16 (R101). -/
def fieldA (cmd : Word32) : Nat := cmd.toNat / 2 ^ 16 % 256

/-- The field `B`, bits 15:8 (R101). -/
def fieldB (cmd : Word32) : Nat := cmd.toNat / 2 ^ 8 % 256

/-- The field `Z`, bits 7:0 (R101). -/
def fieldZ (cmd : Word32) : Nat := cmd.toNat % 256

/-- `CMD[31]`, the unit select `U`: false = BR, true = BW (R101). -/
def selectsWriter (cmd : Word32) : Bool := decide (128 ≤ fieldOp cmd)

/-- Format N: no operand, `A`, `B` and `Z` must be zero (R102). -/
def decodeN (cmd : Word32) (i : Instr) : Except DecodeError Instr :=
  if fieldA cmd ≠ 0 then .error .unusedANotZero
  else if fieldB cmd ≠ 0 then .error .unusedBNotZero
  else if fieldZ cmd ≠ 0 then .error .reservedNotZero
  else .ok i

/-- Format L: `A` is the length, `B` and `Z` must be zero (R102). -/
def decodeL (cmd : Word32) (make : Nat → Instr) : Except DecodeError Instr :=
  if fieldB cmd ≠ 0 then .error .unusedBNotZero
  else if fieldZ cmd ≠ 0 then .error .reservedNotZero
  else .ok (make (fieldA cmd))

/-- Format SR: `A` is the scale, `B` the range, `Z` must be zero (R102). -/
def decodeSR (cmd : Word32) (make : Nat → Nat → Instr) : Except DecodeError Instr :=
  if fieldZ cmd ≠ 0 then .error .reservedNotZero
  else .ok (make (fieldA cmd) (fieldB cmd))

/-- The decoder: "reads `CMD[31:24]`, finds the row, checks the mask" (R111), the rows being those of R104. -/
def decode (cmd : Word32) : Except DecodeError Instr :=
  match fieldOp cmd with
  | 0x01 => decodeN cmd .rbool
  | 0x02 => decodeL cmd .ru8
  | 0x03 => decodeL cmd .ru16
  | 0x04 => decodeL cmd .ru32
  | 0x05 => decodeL cmd .rs32
  | 0x06 => decodeL cmd .ru64
  | 0x07 => decodeL cmd .rs64
  | 0x08 => decodeN cmd .rf32
  | 0x09 => decodeN cmd .rf64
  | 0x0A => decodeSR cmd .rlpb
  | 0x0B => decodeN cmd .ralign
  | 0x0C => decodeN cmd .rclose
  | 0x0D => decodeN cmd .rcnt
  | 0x81 => decodeN cmd .wbool
  | 0x82 => decodeL cmd .wu8
  | 0x83 => decodeL cmd .wu16
  | 0x84 => decodeL cmd .wu32
  | 0x85 => decodeL cmd .ws32
  | 0x86 => decodeL cmd .wu64
  | 0x87 => decodeL cmd .ws64
  | 0x88 => decodeN cmd .wf32
  | 0x89 => decodeN cmd .wf64
  | 0x8A => decodeSR cmd .wlpb
  | 0x8B => decodeN cmd .walign
  | 0x8C => decodeN cmd .wclose
  | 0x8D => decodeN cmd .wcnt
  | _ => .error .unassignedOpcode

/-- The `OP` of an instruction's row (R104). -/
def opcodeOf (i : Instr) : Nat :=
  match i with
  | .rbool => 0x01
  | .ru8 _ => 0x02
  | .ru16 _ => 0x03
  | .ru32 _ => 0x04
  | .rs32 _ => 0x05
  | .ru64 _ => 0x06
  | .rs64 _ => 0x07
  | .rf32 => 0x08
  | .rf64 => 0x09
  | .rlpb _ _ => 0x0A
  | .ralign => 0x0B
  | .rclose => 0x0C
  | .rcnt => 0x0D
  | .wbool => 0x81
  | .wu8 _ => 0x82
  | .wu16 _ => 0x83
  | .wu32 _ => 0x84
  | .ws32 _ => 0x85
  | .wu64 _ => 0x86
  | .ws64 _ => 0x87
  | .wf32 => 0x88
  | .wf64 => 0x89
  | .wlpb _ _ => 0x8A
  | .walign => 0x8B
  | .wclose => 0x8C
  | .wcnt => 0x8D

/-- The field `A` an instruction carries: its length or scale, else 0 (R102). -/
def operandA (i : Instr) : Nat :=
  match i with
  | .ru8 len | .ru16 len | .ru32 len | .rs32 len | .ru64 len | .rs64 len => len
  | .wu8 len | .wu16 len | .wu32 len | .ws32 len | .wu64 len | .ws64 len => len
  | .rlpb scale _ | .wlpb scale _ => scale
  | .rbool | .rf32 | .rf64 | .ralign | .rclose | .rcnt => 0
  | .wbool | .wf32 | .wf64 | .walign | .wclose | .wcnt => 0

/-- The field `B` an instruction carries: its range, else 0 (R102). -/
def operandB (i : Instr) : Nat :=
  match i with
  | .rlpb _ range | .wlpb _ range => range
  | .ru8 _ | .ru16 _ | .ru32 _ | .rs32 _ | .ru64 _ | .rs64 _ => 0
  | .wu8 _ | .wu16 _ | .wu32 _ | .ws32 _ | .wu64 _ | .ws64 _ => 0
  | .rbool | .rf32 | .rf64 | .ralign | .rclose | .rcnt => 0
  | .wbool | .wf32 | .wf64 | .walign | .wclose | .wcnt => 0

/-- The encoder: `OP << 24 | A << 16 | B << 8`, `Z = 0` (R101, R112). -/
def encode (i : Instr) : Word32 :=
  BitVec.ofNat 32 (opcodeOf i * 2 ^ 24 + operandA i * 2 ^ 16 + operandB i * 2 ^ 8)

/-- The unit an instruction belongs to: true for a BW command (R101, R104). -/
def Instr.onWriter (i : Instr) : Bool := decide (128 ≤ opcodeOf i)

/-- The opcode map of R104 as (match, mask) pairs, the masks those of the formats of R102, in the table's order. -/
def opcodeRows : List (Word32 × Word32) :=
  [(0x01000000#32, 0xFFFFFFFF#32), (0x02000000#32, 0xFF00FFFF#32), (0x03000000#32, 0xFF00FFFF#32),
   (0x04000000#32, 0xFF00FFFF#32), (0x05000000#32, 0xFF00FFFF#32), (0x06000000#32, 0xFF00FFFF#32),
   (0x07000000#32, 0xFF00FFFF#32), (0x08000000#32, 0xFFFFFFFF#32), (0x09000000#32, 0xFFFFFFFF#32),
   (0x0A000000#32, 0xFF0000FF#32), (0x0B000000#32, 0xFFFFFFFF#32), (0x0C000000#32, 0xFFFFFFFF#32),
   (0x0D000000#32, 0xFFFFFFFF#32)] ++
  [(0x81000000#32, 0xFFFFFFFF#32), (0x82000000#32, 0xFF00FFFF#32), (0x83000000#32, 0xFF00FFFF#32),
   (0x84000000#32, 0xFF00FFFF#32), (0x85000000#32, 0xFF00FFFF#32), (0x86000000#32, 0xFF00FFFF#32),
   (0x87000000#32, 0xFF00FFFF#32), (0x88000000#32, 0xFFFFFFFF#32), (0x89000000#32, 0xFFFFFFFF#32),
   (0x8A000000#32, 0xFF0000FF#32), (0x8B000000#32, 0xFFFFFFFF#32), (0x8C000000#32, 0xFFFFFFFF#32),
   (0x8D000000#32, 0xFFFFFFFF#32)]

/-- `Legal(CMD)` as rule R106 gives it: `CMD & mask = match` for some row of the map. -/
def legalWord (cmd : Word32) : Bool := opcodeRows.any fun row => cmd &&& row.2 == row.1

/-- The table's word of `nbits` bits, bit 0 the least significant bit of `CMD` (R9), the bits above `nbits` zero. -/
def tableWord (nbits w : Nat) : Word32 := BitVec.ofNat 32 (w % 2 ^ nbits)

/-- What the decoder reads from a table word: an instruction is one 32-bit command word (R100, log 9). -/
def decodeTableWord (nbits w : Nat) : Option Instr :=
  match decode (tableWord nbits w) with
  | .ok i => some i
  | .error _ => none

end Sys2Proof
end

