-- ==== Sys2Proof/Config.lean ====
section
/-!
DEFINITION. What the implementation fixes (spec/00_scope.md R6, R7) and the free values (spec/93 U2).
-/
namespace Sys2Proof

/-- Flags per window, WINDOW_BITS (R6). -/
def Config.windowBits : Nat := 8

/-- Chunk of the short decomposition (R6). -/
def Config.shortChunk : Nat := 8

/-- Chunk of the int decomposition (R6). -/
def Config.intChunk : Nat := 16

/-- Chunk of the long decomposition (R6). -/
def Config.longChunk : Nat := 31

/-- Entries of an element buffer, EB_SIZE (R7, D14). -/
def Config.ebSize : Nat := 65536

/-- FREE VALUE (log 4): what entry `index` of EBR holds in the `life`-th life of BR (a life runs from reset to reset)
while RLPB has not written it: unspecified (R31, U2). No body, so no proof can rest on a value of it. -/
opaque Config.unwrittenEbr (life index : Nat) : Byte

/-- FREE VALUE (log 4): what entry `index` of EBW holds in the `life`-th life of BW while the host has not written it:
"WLPB reading an entry the host has not written since reset gets an unspecified byte" (R31, U2). -/
opaque Config.unwrittenEbw (life index : Nat) : Byte

end Sys2Proof
end

