-- ==== Sys2Proof/Machine/State.lean ====
section
/-!
DEFINITION. The state of the block (spec/10_state.md R20, R21, R24, R31), the answers of its environment as plain data
(spec/20_memory.md R60 to R63), the host's coming actions (spec/70_reset_and_hazards.md R336), and the reasons to stop.
-/
namespace Sys2Proof.Machine

/-- A window: 8 flags, position 0 the most significant bit of the byte it stands for (R9, R20, R21). -/
abbrev Window := Vector Bool 8

/-- An element buffer's written entries: (index, byte) pairs, indexes strictly rising; an index that is not listed has
not been written since the unit's reset and holds an unspecified byte (R29, R31; log 4). -/
abbrev Memory := List Host.Cell

/-- The two units (R2). -/
inductive UnitId where
  | br
  | bw
  deriving DecidableEq, Repr

/-- The error kinds that poison a unit, in the order of their codes 1 to 4 (R280); the codes 5 to 7 are no value of
`ERR` (U9). -/
inductive ErrorKind where
  | invalidArgument
  | endOfStream
  | channelIOFailure
  | illegalCommand
  deriving DecidableEq, Repr

/-- The status of a response: one of the six codes of R280; 6 and 7 are never produced (U9). -/
inductive Status where
  | ok
  | error (kind : ErrorKind)
  | refused
  deriving DecidableEq, Repr

/-- A response: `STATUS` and `RES` (R100). -/
structure Response where
  status : Status
  res : Word64
  deriving DecidableEq, Repr

/-- What a pull answers (R61). -/
inductive PullAnswer where
  | byte (b : Byte)
  | endOfData
  | fail (code : Word32)
  | noAnswer
  deriving DecidableEq, Repr

/-- What a push or a close answers (R62, R63). -/
inductive Ack where
  | ok
  | fail (code : Word32)
  | noAnswer
  deriving DecidableEq, Repr

/-- A transfer on the reader's channel, with its answer (R77). -/
inductive SourceEvent where
  | pull (answer : PullAnswer)
  | close (answer : Ack)
  deriving DecidableEq, Repr

/-- A transfer on the writer's channel, with its answer (R77). -/
inductive SinkEvent where
  | push (b : Byte) (answer : Ack)
  | close (answer : Ack)
  deriving DecidableEq, Repr

/-- The byte source BR is bound to: environment, not state of the unit (R20, R60). `answers` and `closeAnswers` are the
answers it is going to give, in order (log 5); `events` the transfers of the unit's present life, oldest first (R77);
`past` the histories of its earlier lives (log 8). -/
structure Source where
  answers : List PullAnswer
  closeAnswers : List Ack
  events : List SourceEvent
  past : List (List SourceEvent)
  deriving DecidableEq, Repr

/-- The byte sink BW is bound to (R21, R60), as `Source`. -/
structure Sink where
  pushAnswers : List Ack
  closeAnswers : List Ack
  events : List SinkEvent
  past : List (List SinkEvent)
  deriving DecidableEq, Repr

/-- Unit BR with the source it is bound to: `R.WIN`, `R.CUR`, `R.CNT`, `R.ERR` (none is 0), `R.CLOSED`, `EBR` (R20). -/
structure Reader where
  win : Window
  cur : Fin 9
  cnt : Nat
  err : Option ErrorKind
  closed : Bool
  ebr : Memory
  src : Source
  deriving DecidableEq, Repr

/-- Unit BW with the sink it is bound to: `W.WIN`, `W.CUR`, `W.CNT`, `W.ERR`, `W.CLOSED`, `EBW` (R21). -/
structure Writer where
  win : Window
  cur : Fin 9
  cnt : Nat
  err : Option ErrorKind
  closed : Bool
  ebw : Memory
  snk : Sink
  deriving DecidableEq, Repr

/-- What the host does beside issuing commands (R336): reset a unit (R320), provide a unit with a channel and reset it
(R322), read or write an element buffer (R27, R68). A read is answered with a byte and a write with nothing (DESIGN CHOICE,
log 16). -/
inductive HostControl where
  | resetReader
  | resetWriter
  | bindReader (answers : List PullAnswer) (closeAnswers : List Ack)
  | bindWriter (pushAnswers closeAnswers : List Ack)
  | readEbr (index : Nat)
  | readEbw (index : Nat)
  | writeEbw (index : Nat) (b : Byte)
  deriving DecidableEq, Repr

/-- One action of the host: a command, `CMD` with `OPV` (R100), or another interaction (R336). -/
inductive HostAction where
  | command (cmd : Word32) (opv : Word64)
  | control (c : HostControl)
  deriving DecidableEq, Repr

/-- The block and its environment. `br`, `bw`: the units. `cmd`, `opv`: the transaction fields `CMD` and `OPV` of the
last command presented (R24). `response`: `STATUS` and `RES` of the last command, none before the first and while a
command is unfinished. `hung`: the unit whose command waits for a transfer that is never answered (R334).
`host`: the actions the host is still going to take (R25; log 1). `bufferByte`: the byte answered to the host's
last READ of a buffer (R336), none before the first; a host's write of EBW is not answered (DESIGN CHOICE, log 16). -/
structure State where
  br : Reader
  bw : Writer
  cmd : Word32
  opv : Word64
  response : Option Response
  hung : Option UnitId
  host : List HostAction
  bufferByte : Option Byte
  deriving DecidableEq, Repr

/-- Reasons for the machine to stop with a fault. No command raises one: errors of commands are responses (R280). -/
inductive Fault where
  /-- Raised by a host buffer access (`hostControl`) at an index above 65535, an entry the spec says does not exist
  (R29: index 0..65535). Safe: the model stops. -/
  | elementIndexOutOfRange
  deriving DecidableEq, Repr

/-- Reasons to have no transition. -/
inductive Refusal where
  /-- Raised by an arm of `exec` whose instruction has no meaning yet. Safe: the model stops. No arm raises it now. -/
  | notModelled (mnemonic : String)
  /-- Raised by RCNT and WCNT when the counter is 2^64 or more and so has no 64-bit result: "a run that would push or
  pull 2^64 bytes is outside this spec" (R294; treatment `refuse` in U5). Safe: the model stops. -/
  | counterBeyond64Bits
  deriving DecidableEq, Repr

/-- The window at reset: "unspecified; unobservable" (R31). DESIGN CHOICE, unsafe (log 3): all flags 0. -/
def resetWindow : Window := #v[false, false, false, false, false, false, false, false]

/-- BR after reset, bound to `src` (R31, R320). -/
def Reader.fresh (src : Source) : Reader :=
  { win := resetWindow, cur := 8, cnt := 0, err := none, closed := false, ebr := [], src := src }

/-- BW after reset, bound to `snk` (R31, R320). -/
def Writer.fresh (snk : Sink) : Writer :=
  { win := resetWindow, cur := 0, cnt := 0, err := none, closed := false, ebw := [], snk := snk }

/-- The machine right after reset of both units (R31, R320, R321): idle, no command, no transfer, and scripts with no
entry (log 5) and no host action (log 1); the transaction fields hold nothing (log 2). -/
def State.reset : State :=
  { br := Reader.fresh { answers := [], closeAnswers := [], events := [], past := [] }
    bw := Writer.fresh { pushAnswers := [], closeAnswers := [], events := [], past := [] }
    cmd := 0
    opv := 0
    response := none
    hung := none
    host := []
    bufferByte := none }

end Sys2Proof.Machine
end

