-- ==== Sys2Proof/Machine/Flags.lean ====
section
/-!
DEFINITION. The flags of the block. It has no condition codes and no arithmetic flags (spec/10_state.md R26): its only
flags are `ERR` and `CLOSED` of each unit, with the status codes they and the responses show (spec/60_exceptions.md R280).
-/
namespace Sys2Proof.Machine

/-- The code 1 to 4 of an error kind (R280). -/
def ErrorKind.code (k : ErrorKind) : BitVec 3 :=
  match k with
  | .invalidArgument => 1
  | .endOfStream => 2
  | .channelIOFailure => 3
  | .illegalCommand => 4

/-- The 3-bit `STATUS` (R280). -/
def Status.code (st : Status) : BitVec 3 :=
  match st with
  | .ok => 0
  | .error k => k.code
  | .refused => 5

/-- The 3-bit field `ERR`: 0 for no error so far (R20). -/
def errCode (err : Option ErrorKind) : BitVec 3 :=
  match err with
  | none => 0
  | some k => k.code

/-- `U.ERR != 0 or U.CLOSED = 1`: the unit refuses every command but its counter read (R110, R285). -/
def poisonedOrClosed (err : Option ErrorKind) (closed : Bool) : Bool := err.isSome || closed

/-- BR is poisoned or closed (R285). -/
def Reader.refuses (r : Reader) : Bool := poisonedOrClosed r.err r.closed

/-- BW is poisoned or closed (R285). -/
def Writer.refuses (w : Writer) : Bool := poisonedOrClosed w.err w.closed

end Sys2Proof.Machine
end

