-- ==== Sys2Proof/Machine/Operands.lean ====
section
/-!
DEFINITION. Integers and words (spec/00_scope.md R9, R10), the operand and the result of a command (spec/30_encoding.md
R108, R109), the legal ranges of lengths (R6) and the validation of values (spec/42_writer_integer.md R217).
-/
namespace Sys2Proof.Machine

/-- `asr(v, n) = floor(v / 2^n)` (R10). -/
def asr (v : Int) (n : Nat) : Int := v / ((2 ^ n : Nat) : Int)

/-- `bit(v, i) = asr(v, i) mod 2`, as a flag (R10). -/
def bitOf (v : Int) (i : Nat) : Bool := decide (asr v i % 2 = 1)

/-- `low(v, n) = v mod 2^n` (R10). -/
def low (v : Int) (n : Nat) : Int := v % ((2 ^ n : Nat) : Int)

/-- `zext_64(v)` (R10). -/
def zext64 (v : Nat) : Word64 := BitVec.ofNat 64 v

/-- `sext_64(v)` (R10). -/
def sext64 (v : Int) : Word64 := BitVec.ofInt 64 v

/-- `OPV[31:0]` (R9). -/
def opvLow (opv : Word64) : Word32 := opv.setWidth 32

/-- The operand of an int-class command: `i_32(OPV[31:0])`; `OPV[63:32]` is ignored (R108). -/
def opvInt32 (opv : Word64) : Int := (opvLow opv).toInt

/-- The operand of a long-class command: `i_64(OPV)` (R108). -/
def opvInt64 (opv : Word64) : Int := opv.toInt

/-- The binary32 pattern `OPV[31:0]` of WF32 (R108). -/
def opvPattern32 (opv : Word64) : Nat := (opvLow opv).toNat

/-- The binary64 pattern `OPV[63:0]` of WF64 (R108). -/
def opvPattern64 (opv : Word64) : Nat := opv.toNat

/-- A length, scale or range lies in its legal range (R6). -/
def inRange (lo hi x : Nat) : Bool := decide (lo ≤ x ∧ x ≤ hi)

/-- `FitsU(len, v) := asr(v, len) = 0` (R217). -/
def fitsU (len : Nat) (v : Int) : Bool := decide (asr v len = 0)

/-- `FitsS(len, v, max) := len = max or asr(v, len-1) = (if v < 0 then -1 else 0)` (R217). -/
def fitsS (len : Nat) (v : Int) (max : Nat) : Bool :=
  decide (len = max ∨ asr v (len - 1) = if v < 0 then -1 else 0)

/-- The two's-complement construction of the signed reads: `(if s = 1 then -(2^(A-1)) else 0) + m` (R151, R153). -/
def signedValue (len : Nat) (sign : Bool) (magnitude : Nat) : Int :=
  (if sign then -((2 ^ (len - 1) : Nat) : Int) else 0) + (magnitude : Int)

end Sys2Proof.Machine
end

