-- ==== Sys2Proof/Machine/Ops.lean ====
section
/-!
DEFINITION. The named operations: windows, channel transfers, element buffers, what a micro-operation answers, the taking
of an error as one shared operation, and the reset that is the only way back from it.
-/
namespace Sys2Proof.Machine

/-! ### Windows (R9, R64) -/

/-- `ByteOf(WIN) = WIN[0]*128 + WIN[1]*64 + ... + WIN[7]` (R9). -/
def byteOf (w : Window) : Byte :=
  BitVec.ofNat 8 (w[0].toNat * 128 + w[1].toNat * 64 + w[2].toNat * 32 + w[3].toNat * 16
    + w[4].toNat * 8 + w[5].toNat * 4 + w[6].toNat * 2 + w[7].toNat)

/-- `FlagsOf(b)[p] = (b >> (7-p)) & 1` (R9). -/
def flagsOf (b : Byte) : Window :=
  #v[b.getLsbD 7, b.getLsbD 6, b.getLsbD 5, b.getLsbD 4, b.getLsbD 3, b.getLsbD 2, b.getLsbD 1, b.getLsbD 0]

/-- `WIN[CUR]`; at `CUR = 8` there is no such flag and no rule reads it. -/
def flagAt (w : Window) (cur : Fin 9) : Bool :=
  if h : cur.val < 8 then w[cur.val] else false

/-- `WIN[CUR] <- b`; at `CUR = 8` there is no such flag and no rule writes it. -/
def setFlagAt (w : Window) (cur : Fin 9) (b : Bool) : Window :=
  if h : cur.val < 8 then w.set cur.val b h else w

/-- `CUR + 1`, never above 8: "No rule of this spec writes a value outside 0..8" (R22). -/
def nextCur (cur : Fin 9) : Fin 9 :=
  if h : cur.val < 8 then ⟨cur.val + 1, by omega⟩ else cur

/-! ### Element buffers (R29, R68) -/

/-- The canonical form of a buffer: indexes strictly rising, each in 0..65535 (R68; log 4). -/
abbrev Memory.wf (m : Memory) : Prop :=
  (m.map Prod.fst).Pairwise (· < ·) ∧ ∀ c ∈ m, c.1 < Config.ebSize

/-- The byte written at an index since reset, if any. -/
def memPeek : Memory → Nat → Option Byte
  | [], _ => none
  | (a, v) :: m, i => if a = i then some v else memPeek m i

/-- `MemWrite(E + i, 1, v)`: entry `i` becomes `v`, every other entry stays (R11, R68). -/
def memWrite : Memory → Nat → Byte → Memory
  | [], i, b => [(i, b)]
  | (a, v) :: m, i, b =>
    if i < a then (i, b) :: (a, v) :: m
    else if i = a then (i, b) :: m
    else (a, v) :: memWrite m i b

/-- Entry `i` of EBR as the host reads it: what RLPB wrote, else the free value of log 4 (R31, R331). -/
def readEbrEntry (r : Reader) (i : Nat) : Byte :=
  (memPeek r.ebr i).getD (Config.unwrittenEbr r.src.past.length i)

/-- `MemRead(EBW + i, 1)`: what the host wrote, else the free value of log 4 (R11, R31). -/
def readEbwEntry (w : Writer) (i : Nat) : Byte :=
  (memPeek w.ebw i).getD (Config.unwrittenEbw w.snk.past.length i)

/-! ### Channel transfers (R61 to R63, R77) -/

/-- `SrcPull()`: the next answer, recorded; an exhausted script answers end-of-data (R61; log 5). -/
def srcPull (k : Source) : PullAnswer × Source :=
  match k.answers with
  | [] => (.endOfData, { k with events := k.events ++ [.pull .endOfData] })
  | a :: rest => (a, { k with answers := rest, events := k.events ++ [.pull a] })

/-- `SrcClose()` (R63; log 5). -/
def srcClose (k : Source) : Ack × Source :=
  match k.closeAnswers with
  | [] => (.ok, { k with events := k.events ++ [.close .ok] })
  | a :: rest => (a, { k with closeAnswers := rest, events := k.events ++ [.close a] })

/-- `SinkPush(b)`: the next answer, recorded with the byte; an exhausted script answers Ok (R62; log 5). -/
def sinkPush (b : Byte) (k : Sink) : Ack × Sink :=
  match k.pushAnswers with
  | [] => (.ok, { k with events := k.events ++ [.push b .ok] })
  | a :: rest => (a, { k with pushAnswers := rest, events := k.events ++ [.push b a] })

/-- `SinkClose()` (R63; log 5). -/
def sinkClose (k : Sink) : Ack × Sink :=
  match k.closeAnswers with
  | [] => (.ok, { k with events := k.events ++ [.close .ok] })
  | a :: rest => (a, { k with closeAnswers := rest, events := k.events ++ [.close a] })

/-! ### What a micro-operation answers -/

/-- The raises of the pseudocode (R11). -/
inductive Raise where
  | invalidArgument
  | endOfStream
  | channelIOFailure (code : Word32)
  | illegalCommand
  deriving DecidableEq, Repr

/-- The error kind a raise records (R281 to R284). -/
def Raise.kind (e : Raise) : ErrorKind :=
  match e with
  | .invalidArgument => .invalidArgument
  | .endOfStream => .endOfStream
  | .channelIOFailure _ => .channelIOFailure
  | .illegalCommand => .illegalCommand

/-- `RES` of a raise: the channel's failure code for status 3, else 0 (R109). -/
def Raise.res (e : Raise) : Word64 :=
  match e with
  | .channelIOFailure code => zext64 code.toNat
  | .invalidArgument | .endOfStream | .illegalCommand => 0

/-- What a piece of pseudocode does to a unit: it returns, it raises (what was written before stays written, R11), or a
transfer it makes is never answered (R334). -/
inductive Res (σ α : Type) where
  | done (v : α) (s : σ)
  | raise (e : Raise) (s : σ)
  | hang (s : σ)
  deriving DecidableEq, Repr

/-- Sequencing: "a `raise` ends the command at once: no later line of the pseudocode runs" (R11). -/
def Res.bind {σ α β : Type} (x : Res σ α) (f : α → σ → Res σ β) : Res σ β :=
  match x with
  | .done v s => f v s
  | .raise e s => .raise e s
  | .hang s => .hang s

/-! ### Responses and errors -/

/-- Completion of a command with a status and a result (R100). -/
def State.respond (s : State) (status : Status) (res : Word64) : State :=
  { s with response := some { status := status, res := res } }

/-- Replace the unit BR. -/
def State.setBr (s : State) (r : Reader) : State := { s with br := r }

/-- Replace the unit BW. -/
def State.setBw (s : State) (w : Writer) : State := { s with bw := w }

/-- `U.ERR <- k` (R288). -/
def State.setErr (s : State) (u : UnitId) (k : ErrorKind) : State :=
  match u with
  | .br => s.setBr { s.br with err := some k }
  | .bw => s.setBw { s.bw with err := some k }

/-- TAKING AN ERROR, for every command of either unit: "`U.ERR` is set to that status; the response carries the status
and the `RES` of R109; nothing else is saved, no mode changes, no control goes anywhere" (R288). -/
def State.takeError (s : State) (u : UnitId) (e : Raise) : State :=
  (s.setErr u e.kind).respond (.error e.kind) e.res

/-- The command of unit `u` never completes: no response is produced (R334; log 6). -/
def State.hang (s : State) (u : UnitId) : State :=
  { s with response := none, hung := some u }

/-- An abandoned command of unit `u` is gone (R320). -/
def State.abandon (s : State) (u : UnitId) : State :=
  if s.hung = some u then { s with hung := none } else s

/-- The unit's history of transfers ends with its life (R60, R77; log 8). No transfer is made (R320). -/
def Source.newLife (k : Source) : Source := { k with events := [], past := k.past ++ [k.events] }

/-- As `Source.newLife`. -/
def Sink.newLife (k : Sink) : Sink := { k with events := [], past := k.past ++ [k.events] }

/-- Reset of BR, "the only exit from the poisoned state" and from a hang (R291, R320, R334). -/
def State.resetReader (s : State) : State :=
  (s.setBr (Reader.fresh s.br.src.newLife)).abandon .br

/-- Reset of BW (R320). -/
def State.resetWriter (s : State) : State :=
  (s.setBw (Writer.fresh s.bw.snk.newLife)).abandon .bw

/-! ### The wrapper every command passes through (R110) -/

/-- `Execute` for a legal BR command other than RCNT. -/
def runReader (sem : Reader → Res Reader Word64) (s : State) : Host.Outcome State Fault Refusal :=
  if s.br.refuses then .next (s.respond .refused 0)
  else
    match sem s.br with
    | .done v r => .next ((s.setBr r).respond .ok v)
    | .raise e r => .next ((s.setBr r).takeError .br e)
    | .hang r => .next ((s.setBr r).hang .br)

/-- `Execute` for a legal BW command other than WCNT. -/
def runWriter (sem : Writer → Res Writer Word64) (s : State) : Host.Outcome State Fault Refusal :=
  if s.bw.refuses then .next (s.respond .refused 0)
  else
    match sem s.bw with
    | .done v w => .next ((s.setBw w).respond .ok v)
    | .raise e w => .next ((s.setBw w).takeError .bw e)
    | .hang w => .next ((s.setBw w).hang .bw)

/-- `Execute` for RCNT and WCNT, "allowed in every state" (R110); a count that has no 64-bit form is outside the spec
(R294, U5; log 11). -/
def runCounter (cnt : Nat) (s : State) : Host.Outcome State Fault Refusal :=
  if cnt < 2 ^ 64 then .next (s.respond .ok (zext64 cnt)) else .refused .counterBeyond64Bits

/-- The unit `CMD[31]` selects (R101). -/
def unitOf (cmd : Word32) : UnitId := if selectsWriter cmd then .bw else .br

/-- A unit is poisoned or closed (R285). -/
def State.unitRefuses (s : State) (u : UnitId) : Bool :=
  match u with
  | .br => s.br.refuses
  | .bw => s.bw.refuses

/-- `Execute` for a word that is no legal encoding: REFUSED by a poisoned or closed unit, else ILLEGAL_COMMAND on the
unit selected by `CMD[31]` (R107, R110, R284). -/
def rejectIllegal (cmd : Word32) (s : State) : Host.Outcome State Fault Refusal :=
  if s.unitRefuses (unitOf cmd) then .next (s.respond .refused 0)
  else .next (s.takeError (unitOf cmd) .illegalCommand)

end Sys2Proof.Machine
end

