-- ==== Sys2Proof/Machine/ReaderOps.lean ====
section
/-!
DEFINITION. The reader's micro-operations (spec/40_reader_integer.md R140 to R145), the chunked ones as the document
describes them, beside the bit-serial read that is "the reference meaning of every reader operation" (R141).
-/
namespace Sys2Proof.Machine

/-- `R_Refill()`: `R.CNT` counts the byte at the pull; on `EndOfData` or `Fail` nothing of the unit is written (R140). -/
def rRefill (r : Reader) : Res Reader Unit :=
  match srcPull r.src with
  | (.byte b, k) => .done () { r with cnt := r.cnt + 1, win := flagsOf b, cur := 0, src := k }
  | (.endOfData, k) => .raise .endOfStream { r with src := k }
  | (.fail code, k) => .raise (.channelIOFailure code) { r with src := k }
  | (.noAnswer, k) => .hang { r with src := k }

/-- `if R.CUR = 8: R_Refill()` (R140, R142). -/
def rEnsure (r : Reader) : Res Reader Unit :=
  if r.cur.val = 8 then rRefill r else .done () r

/-- `R_Bit()` (R140). -/
def rBit (r : Reader) : Res Reader Bool :=
  (rEnsure r).bind fun _ r => .done (flagAt r.win r.cur) { r with cur := nextCur r.cur }

/-- `repeat n times: v <- 2*v + R_Bit()`. -/
def rGetBitsFrom : Nat → Nat → Reader → Res Reader Nat
  | 0, v, r => .done v r
  | n + 1, v, r => (rBit r).bind fun b r => rGetBitsFrom n (2 * v + b.toNat) r

/-- `R_GetBits(n)`, the bit-serial read (R141). -/
def rGetBits (n : Nat) (r : Reader) : Res Reader Nat := rGetBitsFrom n 0 r

/-- `repeat len times: v <- 2*v + R.WIN[R.CUR]; R.CUR <- R.CUR + 1`, inside one window (R142). -/
def rTake : Nat → Nat → Reader → Nat × Reader
  | 0, v, r => (v, r)
  | n + 1, v, r => rTake n (2 * v + (flagAt r.win r.cur).toNat) { r with cur := nextCur r.cur }

/-- `R_Bits8(len)` where it does not straddle: a refill if no bit is buffered, then `len` window positions (R142). -/
def rPiece (len : Nat) (r : Reader) : Res Reader Nat :=
  (rEnsure r).bind fun _ r => .done (rTake len 0 r).1 (rTake len 0 r).2

/-- `R_Bits8(len)`, len in 1..8, in the two-step form "(first piece fills to the boundary, second piece starts fresh)"
that stands for the recursion of depth 2 (R142). -/
def rBits8 (len : Nat) (r : Reader) : Res Reader Nat :=
  (rEnsure r).bind fun _ r =>
    if len ≤ 8 - r.cur.val then rPiece len r
    else
      (rPiece (8 - r.cur.val) r).bind fun high r' =>
        (rPiece (len - (8 - r.cur.val)) r').bind fun low r'' =>
          .done ((high <<< (len - (8 - r.cur.val))) ||| low) r''

/-- `repeat q times: v <- (v << width) | chunk()` (R143 to R145). -/
def rRepeat (chunk : Reader → Res Reader Nat) (width : Nat) : Nat → Nat → Reader → Res Reader Nat
  | 0, v, r => .done v r
  | q + 1, v, r => (chunk r).bind fun c r => rRepeat chunk width q ((v <<< width) ||| c) r

/-- `R_U16(len)`: the remainder chunk first, then bytes (R143). -/
def rU16 (len : Nat) (r : Reader) : Res Reader Nat :=
  (if 0 < len % Config.shortChunk then rBits8 (len % Config.shortChunk) r else .done 0 r).bind
    (rRepeat (rBits8 Config.shortChunk) Config.shortChunk (len / Config.shortChunk))

/-- `R_U32(len)`: the remainder chunk first, then 16-bit chunks (R144). -/
def rU32 (len : Nat) (r : Reader) : Res Reader Nat :=
  (if 0 < len % Config.intChunk then rU16 (len % Config.intChunk) r else .done 0 r).bind
    (rRepeat (rU16 Config.intChunk) Config.intChunk (len / Config.intChunk))

/-- `R_U64(len)`: the remainder chunk first, then 31-bit chunks (R145). -/
def rU64 (len : Nat) (r : Reader) : Res Reader Nat :=
  (if 0 < len % Config.longChunk then rU32 (len % Config.longChunk) r else .done 0 r).bind
    (rRepeat (rU32 Config.longChunk) Config.longChunk (len / Config.longChunk))

/-- RLPB's loop, from element `i` on for `n` more elements: `e <- R_Bits8(range)`, `MemWrite(EBR + i, 1, e)` (R183). -/
def rElements (range : Nat) : Nat → Nat → Reader → Res Reader Unit
  | 0, _, r => .done () r
  | n + 1, i, r =>
    (rBits8 range r).bind fun e r =>
      rElements range n (i + 1) { r with ebr := memWrite r.ebr i (BitVec.ofNat 8 e) }

/-- `if R.CUR < 8: discard R_Bits8(8 - R.CUR)` (R187, R188). -/
def rDropBuffered (r : Reader) : Res Reader Unit :=
  if r.cur.val < 8 then (rBits8 (8 - r.cur.val) r).bind fun _ r => .done () r else .done () r

/-- `repeat k times: discard R_Bits8(8)` (R187). -/
def rDiscardBytes : Nat → Reader → Res Reader Unit
  | 0, r => .done () r
  | k + 1, r => (rBits8 8 r).bind fun _ r => rDiscardBytes k r

end Sys2Proof.Machine
end

