-- ==== Sys2Proof/Machine/ReaderComposite.lean ====
section
/-!
DEFINITION. The meanings of RF32, RF64, RLPB, RALIGN, RCLOSE, RCNT (spec/41_reader_composite.md R180 to R189).
-/
namespace Sys2Proof.Machine

/-- `Sem(RF32)`: 32 stream bits as a pattern (R180). -/
def semRf32 (r : Reader) : Res Reader Word64 :=
  (rBit r).bind fun sign r =>
    (rU32 31 r).bind fun m r => .done (zext64 (sign.toNat * 2 ^ 31 + m)) r

/-- RF32 (R180). -/
def execRf32 (s : State) : Host.Outcome State Fault Refusal := runReader semRf32 s

/-- `Sem(RF64)`: 64 stream bits as a pattern (R181). -/
def semRf64 (r : Reader) : Res Reader Word64 :=
  (rBit r).bind fun sign r =>
    (rU64 63 r).bind fun m r => .done (zext64 (sign.toNat * 2 ^ 63 + m)) r

/-- RF64 (R181). -/
def execRf64 (s : State) : Host.Outcome State Fault Refusal := runReader semRf64 s

/-- `Sem(RLPB)`: the count, then the elements into EBR from index 0 (R183, R184). -/
def semRlpb (scale range : Nat) (r : Reader) : Res Reader Word64 :=
  if inRange 1 16 scale && inRange 1 8 range then
    (rU32 scale r).bind fun n r =>
      (rElements range n 0 r).bind fun _ r => .done (zext64 n) r
  else .raise .invalidArgument r

/-- RLPB (R183). -/
def execRlpb (scale range : Nat) (s : State) : Host.Outcome State Fault Refusal := runReader (semRlpb scale range) s

/-- `8 - R.CUR`, the bits RALIGN discards from the window; 0 when `R.CUR = 8` (R187, R257). -/
def bufferedBits (r : Reader) : Nat := 8 - r.cur.val

/-- `k <- (bd - (R.CNT % bd)) % bd`, the further whole bytes (R187, R257). -/
def bytesToBoundary (bd cnt : Nat) : Nat := (bd - cnt % bd) % bd

/-- `Sem(RALIGN)` (R187). -/
def semRalign (opv : Word64) (r : Reader) : Res Reader Word64 :=
  if opvInt32 opv ≤ 0 then .raise .invalidArgument r
  else
    (rDropBuffered r).bind fun _ r' =>
      (rDiscardBytes (bytesToBoundary (opvInt32 opv).toNat r'.cnt) r').bind fun _ r'' =>
        .done (zext64 (bufferedBits r + 8 * bytesToBoundary (opvInt32 opv).toNat r'.cnt)) r''

/-- RALIGN (R187). -/
def execRalign (s : State) : Host.Outcome State Fault Refusal := runReader (semRalign s.opv) s

/-- The close of the reader's channel: `Fail` raises with `R.CLOSED = 0`, `Ok` sets `R.CLOSED` (R188). -/
def rCloseChannel (r : Reader) : Res Reader Unit :=
  match srcClose r.src with
  | (.ok, k) => .done () { r with closed := true, src := k }
  | (.fail code, k) => .raise (.channelIOFailure code) { r with src := k }
  | (.noAnswer, k) => .hang { r with src := k }

/-- `Sem(RCLOSE)`: align to 1 byte, which never pulls, then close (R188). -/
def semRclose (r : Reader) : Res Reader Word64 :=
  (rDropBuffered r).bind fun _ r => (rCloseChannel r).bind fun _ r => .done 0 r

/-- RCLOSE (R188). -/
def execRclose (s : State) : Host.Outcome State Fault Refusal := runReader semRclose s

/-- RCNT: `R.CNT`, in every state of the unit (R189, R110). -/
def execRcnt (s : State) : Host.Outcome State Fault Refusal := runCounter s.br.cnt s

end Sys2Proof.Machine
end

