-- ==== Sys2Proof/Machine/ReaderInteger.lean ====
section
/-!
DEFINITION. The meanings of RBOOL, RU8, RU16, RU32, RS32, RU64, RS64 (spec/40_reader_integer.md R147 to R153).
`sem…` is the rule's pseudocode `Sem`, `exec…` runs it inside the wrapper of R110.
-/
namespace Sys2Proof.Machine

/-- `Sem(RBOOL)` (R147). -/
def semRbool (r : Reader) : Res Reader Word64 :=
  (rBit r).bind fun b r => .done (zext64 b.toNat) r

/-- RBOOL (R147). -/
def execRbool (s : State) : Host.Outcome State Fault Refusal := runReader semRbool s

/-- `Sem(RU8)` (R148). -/
def semRu8 (len : Nat) (r : Reader) : Res Reader Word64 :=
  if inRange 1 8 len then (rBits8 len r).bind fun v r => .done (zext64 v) r
  else .raise .invalidArgument r

/-- RU8 (R148). -/
def execRu8 (len : Nat) (s : State) : Host.Outcome State Fault Refusal := runReader (semRu8 len) s

/-- `Sem(RU16)` (R149). -/
def semRu16 (len : Nat) (r : Reader) : Res Reader Word64 :=
  if inRange 1 16 len then (rU16 len r).bind fun v r => .done (zext64 v) r
  else .raise .invalidArgument r

/-- RU16 (R149). -/
def execRu16 (len : Nat) (s : State) : Host.Outcome State Fault Refusal := runReader (semRu16 len) s

/-- `Sem(RU32)` (R150). -/
def semRu32 (len : Nat) (r : Reader) : Res Reader Word64 :=
  if inRange 1 31 len then (rU32 len r).bind fun v r => .done (zext64 v) r
  else .raise .invalidArgument r

/-- RU32 (R150). -/
def execRu32 (len : Nat) (s : State) : Host.Outcome State Fault Refusal := runReader (semRu32 len) s

/-- `Sem(RS32)`: the sign bit, then the magnitude bits (R151). -/
def semRs32 (len : Nat) (r : Reader) : Res Reader Word64 :=
  if inRange 2 32 len then
    (rBit r).bind fun sign r =>
      (rU32 (len - 1) r).bind fun m r => .done (sext64 (signedValue len sign m)) r
  else .raise .invalidArgument r

/-- RS32 (R151). -/
def execRs32 (len : Nat) (s : State) : Host.Outcome State Fault Refusal := runReader (semRs32 len) s

/-- `Sem(RU64)` (R152). -/
def semRu64 (len : Nat) (r : Reader) : Res Reader Word64 :=
  if inRange 1 63 len then (rU64 len r).bind fun v r => .done (zext64 v) r
  else .raise .invalidArgument r

/-- RU64 (R152). -/
def execRu64 (len : Nat) (s : State) : Host.Outcome State Fault Refusal := runReader (semRu64 len) s

/-- `Sem(RS64)` (R153). -/
def semRs64 (len : Nat) (r : Reader) : Res Reader Word64 :=
  if inRange 2 64 len then
    (rBit r).bind fun sign r =>
      (rU64 (len - 1) r).bind fun m r => .done (sext64 (signedValue len sign m)) r
  else .raise .invalidArgument r

/-- RS64 (R153). -/
def execRs64 (len : Nat) (s : State) : Host.Outcome State Fault Refusal := runReader (semRs64 len) s

end Sys2Proof.Machine
end

