-- ==== Sys2Proof/Machine/WriterOps.lean ====
section
/-!
DEFINITION. The writer's micro-operations (spec/42_writer_integer.md R210 to R215), the chunked ones as the document
describes them, beside the bit-serial write that is "the reference meaning of every writer operation" (R211).
-/
namespace Sys2Proof.Machine

/-- `W_Flush()`: a push that fails leaves `W.CUR = 8` and `W.CNT` not incremented (R210). -/
def wFlush (w : Writer) : Res Writer Unit :=
  match sinkPush (byteOf w.win) w.snk with
  | (.ok, k) => .done () { w with cnt := w.cnt + 1, cur := 0, snk := k }
  | (.fail code, k) => .raise (.channelIOFailure code) { w with snk := k }
  | (.noAnswer, k) => .hang { w with snk := k }

/-- `if W.CUR = 8: W_Flush()` (R210, R212). -/
def wFlushIfFull (w : Writer) : Res Writer Unit :=
  if w.cur.val = 8 then wFlush w else .done () w

/-- `W.WIN[W.CUR] <- b; W.CUR <- W.CUR + 1` (R210). -/
def wPutFlag (b : Bool) (w : Writer) : Writer :=
  { w with win := setFlagAt w.win w.cur b, cur := nextCur w.cur }

/-- `W_Bit(b)` (R210). Its precondition `W.CUR <= 7` holds in every unpoisoned, unhung state a run reaches; outside it a
full window is flushed first, as `W_Bits8` does there (log 12). -/
def wBit (b : Bool) (w : Writer) : Res Writer Unit :=
  (wFlushIfFull w).bind fun _ w => wFlushIfFull (wPutFlag b w)

/-- `W_PutBits(n, v)`, the bit-serial write, most significant of the n bits first (R211). -/
def wPutBits : Nat → Int → Writer → Res Writer Unit
  | 0, _, w => .done () w
  | n + 1, v, w => (wBit (bitOf v n) w).bind fun _ w => wPutBits n v w

/-- `for i <- 0 to len-1: W.WIN[W.CUR + i] <- bit(v, len-1-i)` with `W.CUR <- W.CUR + len` (R212). -/
def wPack : Nat → Int → Writer → Writer
  | 0, _, w => w
  | n + 1, v, w => wPack n v (wPutFlag (bitOf v n) w)

/-- `W_Bits8(len, v)` where the value does not overflow the window: pack, and flush a full window (R212). -/
def wPiece (len : Nat) (v : Int) (w : Writer) : Res Writer Unit := wFlushIfFull (wPack len v w)

/-- The fast path of `W_Bits8`: push the byte directly; a failed push leaves `W.CUR = 0` (R212). -/
def wFastPath (v : Int) (w : Writer) : Res Writer Unit :=
  match sinkPush (BitVec.ofInt 8 v) w.snk with
  | (.ok, k) => .done () { w with cnt := w.cnt + 1, snk := k }
  | (.fail code, k) => .raise (.channelIOFailure code) { w with snk := k }
  | (.noAnswer, k) => .hang { w with snk := k }

/-- `W_Bits8(len, v)`, len in 1..8, `required = len - (8 - W.CUR)`; the recursion, at most one level deep, is written as
its two pieces (R212). -/
def wBits8 (len : Nat) (v : Int) (w : Writer) : Res Writer Unit :=
  if w.cur.val = 0 ∧ len = 8 then wFastPath v w
  else if 8 - w.cur.val < len then
    (wPiece (8 - w.cur.val) (asr v (len - (8 - w.cur.val))) w).bind fun _ w' =>
      wPiece (len - (8 - w.cur.val)) (low v (len - (8 - w.cur.val))) w'
  else wPiece len v w

/-- `for j <- q-1 down to 0: chunk(low(v >> (width*j), width))` (R213 to R215). -/
def wRepeat (chunk : Int → Writer → Res Writer Unit) (width : Nat) (v : Int) : Nat → Writer → Res Writer Unit
  | 0, w => .done () w
  | j + 1, w =>
    (chunk (low (asr v (width * j)) width) w).bind fun _ w => wRepeat chunk width v j w

/-- `W_U16(len, v)`: the partial, most significant chunk first, then bytes (R213). -/
def wU16 (len : Nat) (v : Int) (w : Writer) : Res Writer Unit :=
  (if 0 < len % Config.shortChunk then
      wBits8 (len % Config.shortChunk)
        (low (asr v (Config.shortChunk * (len / Config.shortChunk))) (len % Config.shortChunk)) w
    else .done () w).bind
    fun _ w => wRepeat (wBits8 Config.shortChunk) Config.shortChunk v (len / Config.shortChunk) w

/-- `W_U32(len, v)`: the partial chunk first, then 16-bit chunks (R214). -/
def wU32 (len : Nat) (v : Int) (w : Writer) : Res Writer Unit :=
  (if 0 < len % Config.intChunk then
      wU16 (len % Config.intChunk)
        (low (asr v (Config.intChunk * (len / Config.intChunk))) (len % Config.intChunk)) w
    else .done () w).bind
    fun _ w => wRepeat (wU16 Config.intChunk) Config.intChunk v (len / Config.intChunk) w

/-- `W_U64(len, v)`: the partial chunk first, then 31-bit chunks (R215). -/
def wU64 (len : Nat) (v : Int) (w : Writer) : Res Writer Unit :=
  (if 0 < len % Config.longChunk then
      wU32 (len % Config.longChunk)
        (low (asr v (Config.longChunk * (len / Config.longChunk))) (len % Config.longChunk)) w
    else .done () w).bind
    fun _ w => wRepeat (wU32 Config.longChunk) Config.longChunk v (len / Config.longChunk) w

/-- WLPB's loop, from element `i` on for `n` more elements: `W_Bits8(range, low(MemRead(EBW + i, 1), range))` (R252). -/
def wElements (range : Nat) : Nat → Nat → Writer → Res Writer Unit
  | 0, _, w => .done () w
  | n + 1, i, w =>
    (wBits8 range (low ((readEbwEntry w i).toNat : Int) range) w).bind fun _ w => wElements range n (i + 1) w

/-- `if W.CUR > 0: W_Bits8(8 - W.CUR, 0)`: zero-fills and flushes the partial byte (R253, R258). -/
def wFinishByte (w : Writer) : Res Writer Unit :=
  if 0 < w.cur.val then wBits8 (8 - w.cur.val) 0 w else .done () w

/-- `k` times `W_Bits8(8, 0)`: zero bytes (R253). -/
def wZeroBytes : Nat → Writer → Res Writer Unit
  | 0, w => .done () w
  | k + 1, w => (wBits8 8 0 w).bind fun _ w => wZeroBytes k w

end Sys2Proof.Machine
end

