-- ==== Sys2Proof/Machine/WriterComposite.lean ====
section
/-!
DEFINITION. The meanings of WF32, WF64, WLPB, WALIGN, WCLOSE, WCNT (spec/43_writer_composite.md R250 to R259).
-/
namespace Sys2Proof.Machine

/-- `Sem(WF32)`: `W_Bit(p[31])`, `W_U32(31, p[30:0])` (R250). -/
def semWf32 (opv : Word64) (w : Writer) : Res Writer Word64 :=
  (wBit (bitOf (opvPattern32 opv : Int) 31) w).bind fun _ w =>
    (wU32 31 (low (opvPattern32 opv : Int) 31) w).bind fun _ w => .done 0 w

/-- WF32 (R250). -/
def execWf32 (s : State) : Host.Outcome State Fault Refusal := runWriter (semWf32 s.opv) s

/-- `Sem(WF64)`: `W_Bit(p[63])`, `W_U64(63, p[62:0])` (R251). -/
def semWf64 (opv : Word64) (w : Writer) : Res Writer Word64 :=
  (wBit (bitOf (opvPattern64 opv : Int) 63) w).bind fun _ w =>
    (wU64 63 (low (opvPattern64 opv : Int) 63) w).bind fun _ w => .done 0 w

/-- WF64 (R251). -/
def execWf64 (s : State) : Host.Outcome State Fault Refusal := runWriter (semWf64 s.opv) s

/-- `Sem(WLPB)`: the count in `scale` bits, then each element's low `range` bits (R252, R254). -/
def semWlpb (scale range : Nat) (opv : Word64) (w : Writer) : Res Writer Word64 :=
  if inRange 1 16 scale && inRange 1 8 range && fitsU scale (opvInt32 opv) then
    (wU32 scale (opvInt32 opv) w).bind fun _ w =>
      (wElements range (opvInt32 opv).toNat 0 w).bind fun _ w => .done 0 w
  else .raise .invalidArgument w

/-- WLPB (R252). -/
def execWlpb (scale range : Nat) (s : State) : Host.Outcome State Fault Refusal :=
  runWriter (semWlpb scale range s.opv) s

/-- `8 - W.CUR` when a byte is pending, else 0: the bits WALIGN pads to finish the byte (R253, R257). -/
def missingBits (w : Writer) : Nat := if 0 < w.cur.val then 8 - w.cur.val else 0

/-- The further zero bytes of WALIGN: "(bd - W.CNT % bd) % bd iterations" (R253). -/
def zeroBytesToBoundary (bd cnt : Nat) : Nat := (bd - cnt % bd) % bd

/-- `Sem(WALIGN)` (R253). -/
def semWalign (opv : Word64) (w : Writer) : Res Writer Word64 :=
  if opvInt32 opv ≤ 0 then .raise .invalidArgument w
  else
    (wFinishByte w).bind fun _ w' =>
      (wZeroBytes (zeroBytesToBoundary (opvInt32 opv).toNat w'.cnt) w').bind fun _ w'' =>
        .done (zext64 (missingBits w + 8 * zeroBytesToBoundary (opvInt32 opv).toNat w'.cnt)) w''

/-- WALIGN (R253). -/
def execWalign (s : State) : Host.Outcome State Fault Refusal := runWriter (semWalign s.opv) s

/-- The close of the writer's channel: `Fail` raises with `W.CLOSED = 0`, `Ok` sets `W.CLOSED` (R258). -/
def wCloseChannel (w : Writer) : Res Writer Unit :=
  match sinkClose w.snk with
  | (.ok, k) => .done () { w with closed := true, snk := k }
  | (.fail code, k) => .raise (.channelIOFailure code) { w with snk := k }
  | (.noAnswer, k) => .hang { w with snk := k }

/-- `Sem(WCLOSE)`: align to 1 byte, then close; if the last push fails the close is not issued (R258). -/
def semWclose (w : Writer) : Res Writer Word64 :=
  (wFinishByte w).bind fun _ w => (wCloseChannel w).bind fun _ w => .done 0 w

/-- WCLOSE (R258). -/
def execWclose (s : State) : Host.Outcome State Fault Refusal := runWriter semWclose s

/-- WCNT: `W.CNT`, in every state of the unit (R259, R110). -/
def execWcnt (s : State) : Host.Outcome State Fault Refusal := runCounter s.bw.cnt s

end Sys2Proof.Machine
end

