-- ==== Sys2Proof/Machine/WriterInteger.lean ====
section
/-!
DEFINITION. The meanings of WBOOL, WU8, WU16, WU32, WS32, WU64, WS64 (spec/42_writer_integer.md R218 to R224).
The value is validated once, after the length and before the first bit (R217, C5).
-/
namespace Sys2Proof.Machine

/-- `Sem(WBOOL)`: the operand must be 0 or 1 (R218). -/
def semWbool (opv : Word64) (w : Writer) : Res Writer Word64 :=
  if opvInt32 opv ≠ 0 ∧ opvInt32 opv ≠ 1 then .raise .invalidArgument w
  else (wBit (decide (opvInt32 opv = 1)) w).bind fun _ w => .done 0 w

/-- WBOOL (R218). -/
def execWbool (s : State) : Host.Outcome State Fault Refusal := runWriter (semWbool s.opv) s

/-- `Sem(WU8)` (R219). -/
def semWu8 (len : Nat) (opv : Word64) (w : Writer) : Res Writer Word64 :=
  if inRange 1 8 len && fitsU len (opvInt32 opv) then
    (wBits8 len (opvInt32 opv) w).bind fun _ w => .done 0 w
  else .raise .invalidArgument w

/-- WU8 (R219). -/
def execWu8 (len : Nat) (s : State) : Host.Outcome State Fault Refusal := runWriter (semWu8 len s.opv) s

/-- `Sem(WU16)` (R220). -/
def semWu16 (len : Nat) (opv : Word64) (w : Writer) : Res Writer Word64 :=
  if inRange 1 16 len && fitsU len (opvInt32 opv) then
    (wU16 len (opvInt32 opv) w).bind fun _ w => .done 0 w
  else .raise .invalidArgument w

/-- WU16 (R220). -/
def execWu16 (len : Nat) (s : State) : Host.Outcome State Fault Refusal := runWriter (semWu16 len s.opv) s

/-- `Sem(WU32)` (R221). -/
def semWu32 (len : Nat) (opv : Word64) (w : Writer) : Res Writer Word64 :=
  if inRange 1 31 len && fitsU len (opvInt32 opv) then
    (wU32 len (opvInt32 opv) w).bind fun _ w => .done 0 w
  else .raise .invalidArgument w

/-- WU32 (R221). -/
def execWu32 (len : Nat) (s : State) : Host.Outcome State Fault Refusal := runWriter (semWu32 len s.opv) s

/-- `Sem(WS32)`: the sign bit `bit(v, A-1)`, then the low `A-1` bits; at A = 32 every operand fits (R222). -/
def semWs32 (len : Nat) (opv : Word64) (w : Writer) : Res Writer Word64 :=
  if inRange 2 32 len && fitsS len (opvInt32 opv) 32 then
    (wBit (bitOf (opvInt32 opv) (len - 1)) w).bind fun _ w =>
      (wU32 (len - 1) (low (opvInt32 opv) (len - 1)) w).bind fun _ w => .done 0 w
  else .raise .invalidArgument w

/-- WS32 (R222). -/
def execWs32 (len : Nat) (s : State) : Host.Outcome State Fault Refusal := runWriter (semWs32 len s.opv) s

/-- `Sem(WU64)` (R223). -/
def semWu64 (len : Nat) (opv : Word64) (w : Writer) : Res Writer Word64 :=
  if inRange 1 63 len && fitsU len (opvInt64 opv) then
    (wU64 len (opvInt64 opv) w).bind fun _ w => .done 0 w
  else .raise .invalidArgument w

/-- WU64 (R223). -/
def execWu64 (len : Nat) (s : State) : Host.Outcome State Fault Refusal := runWriter (semWu64 len s.opv) s

/-- `Sem(WS64)`; at A = 64 every operand fits (R224). -/
def semWs64 (len : Nat) (opv : Word64) (w : Writer) : Res Writer Word64 :=
  if inRange 2 64 len && fitsS len (opvInt64 opv) 64 then
    (wBit (bitOf (opvInt64 opv) (len - 1)) w).bind fun _ w =>
      (wU64 (len - 1) (low (opvInt64 opv) (len - 1)) w).bind fun _ w => .done 0 w
  else .raise .invalidArgument w

/-- WS64 (R224). -/
def execWs64 (len : Nat) (s : State) : Host.Outcome State Fault Refusal := runWriter (semWs64 len s.opv) s

end Sys2Proof.Machine
end

