-- ==== Sys2Proof/Machine/Dispatch.lean ====
section
/-!
DEFINITION. The dispatch: one arm per command of the opcode map (spec/30_encoding.md R104).
-/
namespace Sys2Proof.Machine

def exec (i : Instr) (s : State) : Host.Outcome State Fault Refusal :=
  match i with
  | .rbool => Sys2Proof.Machine.execRbool s
  | .ru8 len => Sys2Proof.Machine.execRu8 len s
  | .ru16 len => Sys2Proof.Machine.execRu16 len s
  | .ru32 len => Sys2Proof.Machine.execRu32 len s
  | .rs32 len => Sys2Proof.Machine.execRs32 len s
  | .ru64 len => Sys2Proof.Machine.execRu64 len s
  | .rs64 len => Sys2Proof.Machine.execRs64 len s
  | .rf32 => Sys2Proof.Machine.execRf32 s
  | .rf64 => Sys2Proof.Machine.execRf64 s
  | .rlpb scale range => Sys2Proof.Machine.execRlpb scale range s
  | .ralign => Sys2Proof.Machine.execRalign s
  | .rclose => Sys2Proof.Machine.execRclose s
  | .rcnt => Sys2Proof.Machine.execRcnt s
  | .wbool => Sys2Proof.Machine.execWbool s
  | .wu8 len => Sys2Proof.Machine.execWu8 len s
  | .wu16 len => Sys2Proof.Machine.execWu16 len s
  | .wu32 len => Sys2Proof.Machine.execWu32 len s
  | .ws32 len => Sys2Proof.Machine.execWs32 len s
  | .wu64 len => Sys2Proof.Machine.execWu64 len s
  | .ws64 len => Sys2Proof.Machine.execWs64 len s
  | .wf32 => Sys2Proof.Machine.execWf32 s
  | .wf64 => Sys2Proof.Machine.execWf64 s
  | .wlpb scale range => Sys2Proof.Machine.execWlpb scale range s
  | .walign => Sys2Proof.Machine.execWalign s
  | .wclose => Sys2Proof.Machine.execWclose s
  | .wcnt => Sys2Proof.Machine.execWcnt s

end Sys2Proof.Machine
end

