-- ==== Sys2Proof/Machine/HostPort.lean ====
section
/-!
DEFINITION. The host's side of the block (spec/70_reset_and_hazards.md R336): taking the host's next action, presenting a
command, and the interactions that are no commands.
-/
namespace Sys2Proof.Machine

/-- A reset of a unit, also the one that comes with a new channel: the host may apply it while a command executes (R320). -/
def HostAction.isReset (a : HostAction) : Bool :=
  match a with
  | .control .resetReader | .control .resetWriter => true
  | .control (.bindReader _ _) | .control (.bindWriter _ _) => true
  | .control (.readEbr _) | .control (.readEbw _) | .control (.writeEbw _ _) => false
  | .command _ _ => false

/-- The host's next action and the state without it: none when the list is used up, and none while a command is
unfinished and the action is no reset, because the host waits for the response (R25, R326, R334; log 6). -/
def nextAction (s : State) : Option (HostAction × State) :=
  match s.host with
  | [] => none
  | a :: rest => if s.hung.isSome && !a.isReset then none else some (a, { s with host := rest })

/-- The host presents a command: `CMD` and `OPV` are sampled (R24, R100). -/
def State.present (s : State) (cmd : Word32) (opv : Word64) : State := { s with cmd := cmd, opv := opv }

/-- The block answers the host's read of a buffer with a byte (R336; log 16). -/
def State.answerByte (s : State) (b : Byte) : State := { s with bufferByte := some b }

/-- A new source for BR: the host provides the channel (R322 (1)); the reset that must follow (R322 (2)) is part of the
action `bindReader` (log 7). -/
def State.provideSource (s : State) (answers : List PullAnswer) (closeAnswers : List Ack) : State :=
  s.setBr { s.br with src := { s.br.src with answers := answers, closeAnswers := closeAnswers } }

/-- A new sink for BW, as `State.provideSource`. -/
def State.provideSink (s : State) (pushAnswers closeAnswers : List Ack) : State :=
  s.setBw { s.bw with snk := { s.bw.snk with pushAnswers := pushAnswers, closeAnswers := closeAnswers } }

/-- What the host does beside commands. A buffer index above 65535 is no entry (R29). R336 gives a buffer access "index, byte"
sent and "byte" answered, without telling a read from a write. DESIGN CHOICE, unsafe for a claim about `bufferByte` after a
write (log 16): a read is answered with the entry's byte, a write of EBW with nothing, so `bufferByte` stays as it was. -/
def hostControl (c : HostControl) (s : State) : Host.Outcome State Fault Refusal :=
  match c with
  | .resetReader => .next s.resetReader
  | .resetWriter => .next s.resetWriter
  | .bindReader answers closeAnswers => .next (s.provideSource answers closeAnswers).resetReader
  | .bindWriter pushAnswers closeAnswers => .next (s.provideSink pushAnswers closeAnswers).resetWriter
  | .readEbr i =>
    if i < Config.ebSize then .next (s.answerByte (readEbrEntry s.br i)) else .fault .elementIndexOutOfRange
  | .readEbw i =>
    if i < Config.ebSize then .next (s.answerByte (readEbwEntry s.bw i)) else .fault .elementIndexOutOfRange
  | .writeEbw i b =>
    if i < Config.ebSize then .next (s.setBw { s.bw with ebw := memWrite s.bw.ebw i b })
    else .fault .elementIndexOutOfRange

/-- The command word `w` with operand 0 as the host's next action, and no unfinished command (R112; log 9). -/
def State.withNextCommand (s : State) (cmd : Word32) : State :=
  { s with hung := none, host := .command cmd 0 :: s.host }

end Sys2Proof.Machine
end

