-- ==== Sys2Proof/Machine/Step.lean ====
section
/-!
DEFINITION. One step: one action of the host (spec/10_state.md R25, spec/20_memory.md R72; log 1). A block without a next
action "is idle and keeps all its state" (R298).
-/
namespace Sys2Proof.Machine

/-- A command word is presented and executed to completion (R100): the decoded instruction, or the rejection of an
illegal word (R110). -/
def runCommand (cmd : Word32) (s : State) : Host.Outcome State Fault Refusal :=
  match decode cmd with
  | .ok i => exec i s
  | .error _ => rejectIllegal cmd s

/-- One step of the machine. -/
def step (s : State) : Host.Outcome State Fault Refusal :=
  match nextAction s with
  | none => .next s
  | some (.command cmd opv, s') => runCommand cmd (s'.present cmd opv)
  | some (.control c, s') => hostControl c s'

/-- The state with the table's word as the next command the host issues, its operand 0 (log 9). -/
def State.withFetchWord (s : State) (nbits w : Nat) : State := s.withNextCommand (tableWord nbits w)

end Sys2Proof.Machine
end

