-- ==== Sys2Proof/Safety.lean ====
section
/-!
DEFINITION. The terms claims are stated in: the bit streams of spec/20_memory.md R64, R65, R67, R79, what a command may
change, and what holds in every state a run reaches (R20 to R22, R63).
-/
namespace Sys2Proof.Machine

/-! ### Bits and values -/

/-- A byte's bits in stream order, most significant first (R64). -/
def byteBits (b : Byte) : List Bool := (flagsOf b).toList

/-- The unsigned reading of bits in stream order, the earliest most significant (R65). -/
def bitsToNat (bits : List Bool) : Nat := bits.foldl (fun v b => 2 * v + b.toNat) 0

/-- The two's-complement reading of bits in stream order, the earliest the sign (R10, R65). -/
def bitsToInt (bits : List Bool) : Int :=
  match bits with
  | [] => 0
  | sign :: rest => (if sign then -((2 ^ rest.length : Nat) : Int) else 0) + (bitsToNat rest : Int)

/-- The low `n` bits of `v` in stream order, `bit(v, n-1)` first (R65, R211). -/
def intBits : Nat → Int → List Bool
  | 0, _ => []
  | n + 1, v => bitOf v n :: intBits n v

/-! ### The reader's stream -/

/-- The bytes a history's pulls delivered, oldest first. -/
def pulledBytes (events : List SourceEvent) : List Byte :=
  events.filterMap fun e =>
    match e with
    | .pull (.byte b) => some b
    | .pull .endOfData | .pull (.fail _) | .pull .noAnswer | .close _ => none

/-- The closes of a reader's history. -/
def sourceCloses (events : List SourceEvent) : Nat :=
  events.countP fun e =>
    match e with
    | .close _ => true
    | .pull _ => false

/-- The bytes the source is going to deliver before any other answer. -/
def readyBytes : List PullAnswer → List Byte
  | .byte b :: rest => b :: readyBytes rest
  | _ => []

/-- What the source answers after its ready bytes; an exhausted script answers end-of-data (log 5). -/
def answerAfterReady : List PullAnswer → PullAnswer
  | [] => .endOfData
  | .byte _ :: rest => answerAfterReady rest
  | a :: _ => a

/-- The bits the reader can still hand out: the live flags of its window (R23), then the ready bytes. -/
def readableBits (r : Reader) : List Bool :=
  r.win.toList.drop r.cur.val ++ (readyBytes r.src.answers).flatMap byteBits

/-- "BR pulls `ceil((n - a) / 8)` bytes for n bits when `a = 8 - R.CUR` bits were buffered and `n > a`, none otherwise"
(R67). -/
def pullsFor (n : Nat) (r : Reader) : Nat := (n - (8 - r.cur.val) + 7) / 8

/-- What consuming `n` readable bits does to BR, but for EBR: the bits leave in order (R79), the stream position moves by
`n` (R32), the source gives as many bytes as R67 says and each pull is recorded (R77). -/
structure ConsumesBits (n : Nat) (r r' : Reader) : Prop where
  bits : readableBits r' = (readableBits r).drop n
  position : 8 * r'.cnt + r'.cur.val = 8 * r.cnt + r.cur.val + n
  count : r'.cnt = r.cnt + pullsFor n r
  answers : r'.src.answers = r.src.answers.drop (pullsFor n r)
  events : r'.src.events = r.src.events ++ (r.src.answers.take (pullsFor n r)).map SourceEvent.pull
  closeAnswers : r'.src.closeAnswers = r.src.closeAnswers
  past : r'.src.past = r.src.past
  err : r'.err = r.err
  closed : r'.closed = r.closed

/-- BR when a pull is not answered with a byte: the ready bytes are gone, the window is consumed, the pull is recorded
(R155, R282, R290). -/
structure ExhaustsSource (r r' : Reader) : Prop where
  cursor : r'.cur.val = 8
  count : r'.cnt = r.cnt + (readyBytes r.src.answers).length
  answers : r'.src.answers = r.src.answers.drop ((readyBytes r.src.answers).length + 1)
  events : r'.src.events = r.src.events ++ (readyBytes r.src.answers).map (fun b => SourceEvent.pull (.byte b))
    ++ [SourceEvent.pull (answerAfterReady r.src.answers)]
  closeAnswers : r'.src.closeAnswers = r.src.closeAnswers
  past : r'.src.past = r.src.past
  closed : r'.closed = r.closed

/-! ### The writer's stream -/

/-- The bytes a history's pushes put at the sink (answered Ok), oldest first (R62). -/
def pushedBytes (events : List SinkEvent) : List Byte :=
  events.filterMap fun e =>
    match e with
    | .push b .ok => some b
    | .push _ (.fail _) | .push _ .noAnswer | .close _ => none

/-- The closes of a writer's history. -/
def sinkCloses (events : List SinkEvent) : Nat :=
  events.countP fun e =>
    match e with
    | .close _ => true
    | .push _ _ => false

/-- The bits the writer has accepted in its present life: those at the sink, then the live flags of its window (R79). -/
def writtenBits (w : Writer) : List Bool :=
  (pushedBytes w.snk.events).flatMap byteBits ++ w.win.toList.take w.cur.val

/-- "BW pushes `floor((W.CUR + n) / 8)` bytes for n bits" (R67). -/
def pushesFor (n : Nat) (w : Writer) : Nat := (w.cur.val + n) / 8

/-- The sink answers Ok to the next `n` pushes; an exhausted script answers Ok (log 5). -/
def acceptsPushes (n : Nat) (w : Writer) : Prop := ∀ a ∈ w.snk.pushAnswers.take n, a = Ack.ok

/-- The events of pushing bytes that are all accepted. -/
def okPushes (bytes : List Byte) : List SinkEvent := bytes.map fun b => .push b .ok

/-- What producing `bits` does to BW: they follow the bits written before (R79), the stream position moves by their
number (R32), and as many bytes are pushed, recorded and counted as R67 says. -/
structure ProducesBits (bits : List Bool) (w w' : Writer) : Prop where
  stream : writtenBits w' = writtenBits w ++ bits
  position : 8 * w'.cnt + w'.cur.val = 8 * w.cnt + w.cur.val + bits.length
  count : w'.cnt = w.cnt + pushesFor bits.length w
  answers : w'.snk.pushAnswers = w.snk.pushAnswers.drop (pushesFor bits.length w)
  events : ∃ bytes, bytes.length = pushesFor bits.length w ∧ w'.snk.events = w.snk.events ++ okPushes bytes
  closeAnswers : w'.snk.closeAnswers = w.snk.closeAnswers
  past : w'.snk.past = w.snk.past
  ebw : w'.ebw = w.ebw
  err : w'.err = w.err
  closed : w'.closed = w.closed

/-! ### Frames -/

/-- Nothing of the machine but BR and the response differs. -/
def OnlyReader (s t : State) : Prop := t = { s with br := t.br, response := t.response }

/-- Nothing of the machine but BW and the response differs. -/
def OnlyWriter (s t : State) : Prop := t = { s with bw := t.bw, response := t.response }

/-- The command reads: from every state in which BR accepts commands and `n` bits are readable it completes with status 0
and the result that `value` gives of those bits, and changes BR as consuming them does; EBR and the rest of the machine
stay. -/
def ReturnsNextBits (i : Instr) (n : Nat) (value : List Bool → Word64) : Prop :=
  ∀ s : State, s.br.refuses = false → n ≤ (readableBits s.br).length →
    ∃ t, exec i s = .next t ∧
      t.response = some { status := .ok, res := value ((readableBits s.br).take n) } ∧
      ConsumesBits n s.br t.br ∧ t.br.ebr = s.br.ebr ∧ OnlyReader s t

/-- The state after a command met the end of what the source delivers: end-of-data gives status 2, a failure status 3
with its code, no answer an unfinished command (R282, R283, R334); the rest of the machine stays. -/
def SourceEnded (s t : State) : Prop :=
  ExhaustsSource s.br t.br ∧
    match answerAfterReady s.br.src.answers with
    | .endOfData =>
      t.response = some { status := .error .endOfStream, res := 0 } ∧ t.br.err = some .endOfStream ∧ OnlyReader s t
    | .fail code =>
      t.response = some { status := .error .channelIOFailure, res := zext64 code.toNat } ∧
        t.br.err = some .channelIOFailure ∧ OnlyReader s t
    | .noAnswer => t.br.err = none ∧ t = { s with br := t.br, response := none, hung := some .br }
    | .byte _ => False

/-- The command reads `n` bits and, from every state in which BR accepts commands, fewer are readable: it ends as
`SourceEnded` says, and EBR stays. -/
def StopsAtSourceEnd (i : Instr) (n : Nat) : Prop :=
  ∀ s : State, s.br.refuses = false → (readableBits s.br).length < n →
    ∃ t, exec i s = .next t ∧ SourceEnded s t ∧ t.br.ebr = s.br.ebr

/-- The command writes: from every state in which BW accepts commands (a window that is not full, as R21 has it between
commands) and the sink accepts the bytes, it completes with status 0 and result 0, and changes BW as producing `bits`
does; the rest of the machine stays. -/
def WritesBits (i : Instr) (opv : Word64) (bits : List Bool) : Prop :=
  ∀ s : State, s.opv = opv → s.bw.refuses = false → s.bw.cur.val < 8 → acceptsPushes (pushesFor bits.length s.bw) s.bw →
    ∃ t, exec i s = .next t ∧ t.response = some { status := .ok, res := 0 } ∧ ProducesBits bits s.bw t.bw ∧ OnlyWriter s t

/-- The live flags of BW's window: the bits not yet at the sink (R23, R30). -/
def pendingBits (w : Writer) : List Bool := w.win.toList.take w.cur.val

/-- BW when the push after `k` accepted ones is answered `a`, not Ok, while `bits` were being written: the bytes pushed
spell the pending bits and those of the command in order, the last push is recorded and not counted, and `W.CUR` is 8, or
0 after the fast path (R226, R283, R290). -/
structure FailsAtPush (bits : List Bool) (k : Nat) (a : Ack) (w w' : Writer) : Prop where
  count : w'.cnt = w.cnt + k
  cursor : w'.cur.val = 8 ∨ w'.cur.val = 0
  answers : w'.snk.pushAnswers = w.snk.pushAnswers.drop (k + 1)
  events : ∃ bytes b, bytes.length = k ∧ w'.snk.events = w.snk.events ++ okPushes bytes ++ [SinkEvent.push b a] ∧
    (bytes ++ [b]).flatMap byteBits = (pendingBits w ++ bits).take (8 * (k + 1))
  closeAnswers : w'.snk.closeAnswers = w.snk.closeAnswers
  past : w'.snk.past = w.snk.past
  ebw : w'.ebw = w.ebw
  closed : w'.closed = w.closed

/-- The state after a push answered `a`: a failure gives status 3 with its code, no answer an unfinished command (R283,
R334); the rest of the machine stays. -/
def PushFailed (bits : List Bool) (k : Nat) (a : Ack) (s t : State) : Prop :=
  FailsAtPush bits k a s.bw t.bw ∧
    match a with
    | .ok => False
    | .fail code =>
      t.response = some { status := .error .channelIOFailure, res := zext64 code.toNat } ∧
        t.bw.err = some .channelIOFailure ∧ OnlyWriter s t
    | .noAnswer => t.bw.err = none ∧ t = { s with bw := t.bw, response := none, hung := some .bw }

/-- The command writes `bits` and, from every state in which BW accepts commands, the sink accepts `k` pushes and answers
the next one, which the command needs, with `a`, not Ok: it ends as `PushFailed` says. -/
def StopsAtFailedPush (i : Instr) (opv : Word64) (bits : List Bool) : Prop :=
  ∀ (s : State) (k : Nat) (a : Ack), s.opv = opv → s.bw.refuses = false → s.bw.cur.val < 8 →
    k < pushesFor bits.length s.bw → acceptsPushes k s.bw → s.bw.snk.pushAnswers[k]? = some a → a ≠ .ok →
    ∃ t, exec i s = .next t ∧ PushFailed bits k a s t

/-- The two runs of a write agree in all R216 names: on completion the same history, script, counter, cursor and live
flags; on a raise the same raise at the same push; on a hang the same push. -/
def sameWrite (x y : Res Writer Unit) : Prop :=
  match x, y with
  | .done _ w, .done _ w' =>
    w = { w' with win := w.win } ∧ pendingBits w = pendingBits w'
  | .raise e w, .raise e' w' => e = e' ∧ w.snk = w'.snk ∧ w.cnt = w'.cnt
  | .hang w, .hang w' => w.snk = w'.snk ∧ w.cnt = w'.cnt
  | _, _ => False

/-! ### Operands -/

/-- The causes of INVALID_ARGUMENT, complete (R281), in the ranges of R6 and the integers of R217. -/
def invalidOperands (i : Instr) (opv : Word64) : Prop :=
  match i with
  | .ru8 len => len < 1 ∨ 8 < len
  | .ru16 len => len < 1 ∨ 16 < len
  | .ru32 len => len < 1 ∨ 31 < len
  | .rs32 len => len < 2 ∨ 32 < len
  | .ru64 len => len < 1 ∨ 63 < len
  | .rs64 len => len < 2 ∨ 64 < len
  | .rlpb scale range => scale < 1 ∨ 16 < scale ∨ range < 1 ∨ 8 < range
  | .ralign | .walign => opvInt32 opv ≤ 0
  | .wbool => opvInt32 opv ≠ 0 ∧ opvInt32 opv ≠ 1
  | .wu8 len => len < 1 ∨ 8 < len ∨ ¬ (0 ≤ opvInt32 opv ∧ opvInt32 opv < 2 ^ len)
  | .wu16 len => len < 1 ∨ 16 < len ∨ ¬ (0 ≤ opvInt32 opv ∧ opvInt32 opv < 2 ^ len)
  | .wu32 len => len < 1 ∨ 31 < len ∨ ¬ (0 ≤ opvInt32 opv ∧ opvInt32 opv < 2 ^ len)
  | .ws32 len => len < 2 ∨ 32 < len ∨ ¬ (-2 ^ (len - 1) ≤ opvInt32 opv ∧ opvInt32 opv < 2 ^ (len - 1))
  | .wu64 len => len < 1 ∨ 63 < len ∨ ¬ (0 ≤ opvInt64 opv ∧ opvInt64 opv < 2 ^ len)
  | .ws64 len => len < 2 ∨ 64 < len ∨ ¬ (-2 ^ (len - 1) ≤ opvInt64 opv ∧ opvInt64 opv < 2 ^ (len - 1))
  | .wlpb scale range =>
    scale < 1 ∨ 16 < scale ∨ range < 1 ∨ 8 < range ∨ ¬ (0 ≤ opvInt32 opv ∧ opvInt32 opv < 2 ^ scale)
  | .rbool | .rf32 | .rf64 | .rclose | .rcnt | .wf32 | .wf64 | .wclose | .wcnt => False

/-- The counter reads, which the wrapper runs before every other test (R110). -/
def isCounterRead (i : Instr) : Bool := i == .rcnt || i == .wcnt

/-- The unit a command belongs to. -/
def unitOfInstr (i : Instr) : UnitId := if i.onWriter then .bw else .br

/-- The status codes a legal command can complete with (R299). -/
def statusesOf (i : Instr) : List (BitVec 3) :=
  match i with
  | .rbool | .rf32 | .rf64 => [0, 2, 3, 5]
  | .ru8 _ | .ru16 _ | .ru32 _ | .rs32 _ | .ru64 _ | .rs64 _ | .rlpb _ _ | .ralign => [0, 1, 2, 3, 5]
  | .rclose => [0, 3, 5]
  | .rcnt | .wcnt => [0]
  | .wf32 | .wf64 | .wclose => [0, 3, 5]
  | .wbool | .wu8 _ | .wu16 _ | .wu32 _ | .ws32 _ | .wu64 _ | .ws64 _ | .wlpb _ _ | .walign => [0, 1, 3, 5]

/-! ### Mirror sequences (R227, R328) -/

/-- The reader command that mirrors a value command of the writer: "RBOOL for WBOOL, RU8 len for WU8 len, and so on". -/
def mirrorOf (i : Instr) : Option Instr :=
  match i with
  | .wbool => some .rbool
  | .wu8 len => some (.ru8 len)
  | .wu16 len => some (.ru16 len)
  | .wu32 len => some (.ru32 len)
  | .ws32 len => some (.rs32 len)
  | .wu64 len => some (.ru64 len)
  | .ws64 len => some (.rs64 len)
  | .wf32 => some .rf32
  | .wf64 => some .rf64
  | .wlpb _ _ | .walign | .wclose | .wcnt => none
  | .rbool | .ru8 _ | .ru16 _ | .ru32 _ | .rs32 _ | .ru64 _ | .rs64 _ | .rf32 | .rf64 | .rlpb _ _ | .ralign => none
  | .rclose | .rcnt => none

/-- The value a value command of the writer is given in `OPV`, in the 64-bit form a read returns it in (R108, R109). -/
def valueGiven (i : Instr) (opv : Word64) : Word64 :=
  match i with
  | .wu64 _ | .ws64 _ | .wf64 => opv
  | .wf32 => zext64 (opvPattern32 opv)
  | .wbool | .wu8 _ | .wu16 _ | .wu32 _ | .ws32 _ | .wlpb _ _ | .walign => sext64 (opvInt32 opv)
  | .wclose | .wcnt => 0
  | .rbool | .ru8 _ | .ru16 _ | .ru32 _ | .rs32 _ | .ru64 _ | .rs64 _ | .rf32 | .rf64 | .rlpb _ _ | .ralign => 0
  | .rclose | .rcnt => 0

/-- Run commands one after another, each with its operand, collecting the results while every status is 0. -/
def runAll : List (Instr × Word64) → State → Option (List Word64 × State)
  | [], s => some ([], s)
  | (i, opv) :: rest, s =>
    match exec i { s with opv := opv } with
    | .next t =>
      match t.response with
      | some { status := .ok, res := v } => (runAll rest t).map fun (vs, u) => (v :: vs, u)
      | _ => none
    | _ => none

/-! ### Transfers that are answered (R334) -/

/-- The source answered the transfer. -/
def SourceEvent.answered (e : SourceEvent) : Bool :=
  match e with
  | .pull .noAnswer | .close .noAnswer => false
  | .pull (.byte _) | .pull .endOfData | .pull (.fail _) | .close .ok | .close (.fail _) => true

/-- The sink answered the transfer. -/
def SinkEvent.answered (e : SinkEvent) : Bool :=
  match e with
  | .push _ .noAnswer | .close .noAnswer => false
  | .push _ .ok | .push _ (.fail _) | .close .ok | .close (.fail _) => true

/-- The last transfer of a unit has no answer. -/
def State.waitsFor (s : State) (u : UnitId) : Prop :=
  match u with
  | .br => ∃ e, s.br.src.events.getLast? = some e ∧ e.answered = false
  | .bw => ∃ e, s.bw.snk.events.getLast? = some e ∧ e.answered = false

/-! ### Invariants -/

/-- What holds of BR between commands: `R.CUR` in 1..8 (R20), `R.CNT` the number of bytes pulled and the window the last
of them (R20, R294), 8 before the first pull, EBR in canonical form, a closed unit clean (R323), at most one close in a
life and none without a reason to refuse further commands (R63). `hung`: a command of BR is unfinished. -/
structure Reader.Inv (r : Reader) (hung : Bool) : Prop where
  cursor : 1 ≤ r.cur.val
  count : r.cnt = (pulledBytes r.src.events).length
  window : ∀ b, (pulledBytes r.src.events).getLast? = some b → r.win = flagsOf b
  untouched : pulledBytes r.src.events = [] → r.cur.val = 8
  buffer : Memory.wf r.ebr
  clean : r.closed = true → r.err = none ∧ r.cur.val = 8
  oneClose : sourceCloses r.src.events ≤ 1
  closeEnds : sourceCloses r.src.events = 0 ∨ r.refuses = true ∨ hung = true

/-- What holds of BW between commands: a window is full only after a failed or unanswered push (R21), `W.CNT` the number
of bytes at the sink (R21, R294), EBW in canonical form, a closed unit clean (R323), the closes as for BR (R63). -/
structure Writer.Inv (w : Writer) (hung : Bool) : Prop where
  cursor : w.cur.val < 8 ∨ w.err = some .channelIOFailure ∨ hung = true
  count : w.cnt = (pushedBytes w.snk.events).length
  buffer : Memory.wf w.ebw
  clean : w.closed = true → w.err = none ∧ w.cur.val = 0
  oneClose : sinkCloses w.snk.events ≤ 1
  closeEnds : sinkCloses w.snk.events = 0 ∨ w.refuses = true ∨ hung = true

/-- The invariant of the machine; the unit of an unfinished command waits for the answer to its last transfer, and the block
shows no response meanwhile (R334). -/
structure State.Inv (s : State) : Prop where
  reader : s.br.Inv (decide (s.hung = some .br))
  writer : s.bw.Inv (decide (s.hung = some .bw))
  silent : s.hung.isSome = true → s.response = none
  waits : ∀ u, s.hung = some u → s.waitsFor u

end Sys2Proof.Machine
end

