-- ==== Sys2Proof/Certificates/Slice0/Obligations.lean ====
section
/-!
DEFINITION. The statements for the provers, from the numbered rules of spec/. They state and never prove.
-/
open Sys2Proof Sys2Proof.Machine

/-! ### Encoding (30_encoding.md) -/

/-- Command words written out in the spec's table of encodings (95_test_vectors.md 2.1) and its programs decode to the
command they stand for, one or more of every family. -/
def Obligations.SpecWordsDecode : Prop :=
  decode 0x01000000 = .ok .rbool ∧ decode 0x05070000 = .ok (.rs32 7) ∧ decode 0x06210000 = .ok (.ru64 33) ∧
    decode 0x0A040700 = .ok (.rlpb 4 7) ∧ decode 0x0B000000 = .ok .ralign ∧ decode 0x85070000 = .ok (.ws32 7) ∧
    decode 0x863F0000 = .ok (.wu64 63) ∧ decode 0x8A040700 = .ok (.wlpb 4 7) ∧ decode 0x8C000000 = .ok .wclose

/-- Decoding an encoded well-formed instruction gives it back, for all 26 commands and every operand their 8-bit fields
admit (R101, R102, R104, R105). -/
def Obligations.DecodeOfEncodeIsIdentity : Prop :=
  ∀ i : Instr, i.wellFormed = true → decode (encode i) = .ok i

/-- A word that decodes is the encoding of what it decodes to, which is well-formed: no two words mean one command. -/
def Obligations.EncodeOfDecodeIsIdentity : Prop :=
  ∀ (cmd : Word32) (i : Instr), decode cmd = .ok i → i.wellFormed = true ∧ encode i = cmd

/-- `Legal` (R106): a word decodes exactly when `CMD & mask = match` for the row whose match has its `OP`, the row being
the only one the word matches. -/
def Obligations.DecoderAcceptsExactlyTheLegalWords : Prop :=
  (∀ cmd : Word32, (∃ i, decode cmd = .ok i) ↔ ∃ row ∈ opcodeRows, fieldOp row.1 = fieldOp cmd ∧ cmd &&& row.2 = row.1) ∧
    (∀ cmd : Word32, ∀ row ∈ opcodeRows, ∀ row' ∈ opcodeRows,
      cmd &&& row.2 = row.1 → cmd &&& row'.2 = row'.1 → row = row')

/-- An unassigned `OP` of either unit (the all-zero and the all-ones words among them) is rejected by name, and a word that
decodes has the `OP`, `A` and `B` of its command and `Z = 0`: a non-zero `Z` or unused field is illegal (R107, R102). -/
def Obligations.IllegalWordsAreRejectedByName : Prop :=
  (∀ cmd : Word32, (fieldOp cmd = 0 ∨ (0x0E ≤ fieldOp cmd ∧ fieldOp cmd ≤ 0x80) ∨ 0x8E ≤ fieldOp cmd) →
      decode cmd = .error .unassignedOpcode) ∧
    (∀ (cmd : Word32) (i : Instr), decode cmd = .ok i →
      fieldOp cmd = opcodeOf i ∧ fieldA cmd = operandA i ∧ fieldB cmd = operandB i ∧ fieldZ cmd = 0)

/-! ### The step (10_state.md R25, 30_encoding.md R110) -/

/-- A step with a command at the head of the host's list and no command unfinished takes it off, samples `CMD` and `OPV`,
and is `exec` of the decoded instruction at that state, or the rejection of a word that is no legal encoding (R25, R100,
R110). That a step is one action of the host's list is the model's choice (log 1). -/
def Obligations.StepRunsTheDecodedCommand : Prop :=
  ∀ (s : State) (cmd : Word32) (opv : Word64) (rest : List HostAction),
    s.host = .command cmd opv :: rest → s.hung = none →
    step s = runCommand cmd { s with host := rest, cmd := cmd, opv := opv } ∧
      (∀ i, decode cmd = .ok i → step s = exec i { s with host := rest, cmd := cmd, opv := opv }) ∧
      (∀ e, decode cmd = .error e → step s = rejectIllegal cmd { s with host := rest, cmd := cmd, opv := opv })

/-- A word that is no legal encoding, given to a unit that is neither poisoned nor closed: STATUS 4, RES 0 and ERR = 4 on the
unit selected by `CMD[31]`, no transfer and no datapath change (R284). -/
def Obligations.IllegalWordsPoisonTheSelectedUnit : Prop :=
  ∀ (s : State) (cmd : Word32) (e : DecodeError), decode cmd = .error e →
    (fieldOp cmd < 128 → s.br.err = none → s.br.closed = false → runCommand cmd s = .next
      { s with br := { s.br with err := some .illegalCommand },
               response := some { status := .error .illegalCommand, res := 0 } }) ∧
    (128 ≤ fieldOp cmd → s.bw.err = none → s.bw.closed = false → runCommand cmd s = .next
      { s with bw := { s.bw with err := some .illegalCommand },
               response := some { status := .error .illegalCommand, res := 0 } })

/-- When nothing happens. While a command is unfinished, any state of the host's list but a reset of a unit at its head
leaves the machine as it is (R334; that the host waits is the model's choice, log 6); and a block to which the host gives no
command "is idle and keeps all its state" (R298; that an empty list is an idle block is the model's choice, log 1). -/
def Obligations.UnfinishedCommandHoldsTheBlock : Prop :=
  (∀ s : State, s.hung.isSome = true → (∀ a rest, s.host = a :: rest → a.isReset = false) → step s = .next s) ∧
    (∀ s : State, s.host = [] → step s = .next s)

/-! ### Reset (70_reset_and_hazards.md R320) -/

/-- The values R31 gives for reset, and no command is unfinished (R321). The model's choices are that there is no response
before the first command (log 2) and that the buffers list nothing, so that every entry is a free value (log 4). -/
def Obligations.ResetLeavesTheSpecValues : Prop :=
  State.reset.br.cur.val = 8 ∧ State.reset.br.cnt = 0 ∧ State.reset.br.err = none ∧ State.reset.br.closed = false ∧
    State.reset.bw.cur.val = 0 ∧ State.reset.bw.cnt = 0 ∧ State.reset.bw.err = none ∧ State.reset.bw.closed = false ∧
    State.reset.hung = none ∧ State.reset.response = none ∧ State.reset.br.ebr = [] ∧ State.reset.bw.ebw = []

/-- A reset of BR, from every state (poisoned, closed, hung): the values of R31, no transfer, and nothing else (R320): BW, the
transaction fields, the byte of the last buffer read and the source's coming answers stay, and a command of BR that was
unfinished is abandoned. The model's choices: EBR lists nothing (log 4), an unfinished command of BW stays unfinished (log 6),
the ended life's history is put away (log 8). -/
def Obligations.ReaderResetRestoresTheUnit : Prop :=
  ∀ (s : State) (rest : List HostAction), s.host = .control .resetReader :: rest →
    ∃ t, step s = .next t ∧ t.br.cur.val = 8 ∧ t.br.cnt = 0 ∧ t.br.err = none ∧ t.br.closed = false ∧ t.br.ebr = [] ∧
      t.br.src.answers = s.br.src.answers ∧ t.br.src.closeAnswers = s.br.src.closeAnswers ∧ t.br.src.events = [] ∧
      t.br.src.past = s.br.src.past ++ [s.br.src.events] ∧ t.bw = s.bw ∧ t.cmd = s.cmd ∧ t.opv = s.opv ∧
      t.response = s.response ∧ t.bufferByte = s.bufferByte ∧ t.host = rest ∧
      t.hung = (if s.hung = some .br then none else s.hung)

/-- The same for BW: pending bits are lost, nothing is pushed (R320, R324). The model's choices as for BR: EBW lists nothing
(log 4), an unfinished command of BR stays unfinished (log 6), the ended life's history is put away (log 8). -/
def Obligations.WriterResetRestoresTheUnit : Prop :=
  ∀ (s : State) (rest : List HostAction), s.host = .control .resetWriter :: rest →
    ∃ t, step s = .next t ∧ t.bw.cur.val = 0 ∧ t.bw.cnt = 0 ∧ t.bw.err = none ∧ t.bw.closed = false ∧ t.bw.ebw = [] ∧
      t.bw.snk.pushAnswers = s.bw.snk.pushAnswers ∧ t.bw.snk.closeAnswers = s.bw.snk.closeAnswers ∧
      t.bw.snk.events = [] ∧ t.bw.snk.past = s.bw.snk.past ++ [s.bw.snk.events] ∧ t.br = s.br ∧ t.cmd = s.cmd ∧
      t.opv = s.opv ∧ t.response = s.response ∧ t.bufferByte = s.bufferByte ∧ t.host = rest ∧
      t.hung = (if s.hung = some .bw then none else s.hung)

/-- Providing a unit with a channel and resetting it (R322), in one action (log 7): the unit has the values of R31, with
whatever flags in its window, on the new channel, and nothing else of the machine changes. The model's choices: the element
buffer lists nothing (log 4), an unfinished command of the other unit stays unfinished (log 6), the ended life's history is
put away (log 8). -/
def Obligations.ProvidingAChannelStartsAFreshLife : Prop :=
  ∀ (s : State) (rest : List HostAction),
    (∀ (xs : List PullAnswer) (ys : List Ack), s.host = .control (.bindReader xs ys) :: rest →
      ∃ win, step s = .next { s with
        br := { win := win, cur := 8, cnt := 0, err := none, closed := false, ebr := [],
                src := { answers := xs, closeAnswers := ys, events := [], past := s.br.src.past ++ [s.br.src.events] } }
        host := rest
        hung := if s.hung = some .br then none else s.hung }) ∧
    (∀ xs ys : List Ack, s.host = .control (.bindWriter xs ys) :: rest →
      ∃ win, step s = .next { s with
        bw := { win := win, cur := 0, cnt := 0, err := none, closed := false, ebw := [],
                snk := { pushAnswers := xs, closeAnswers := ys, events := [],
                         past := s.bw.snk.past ++ [s.bw.snk.events] } }
        host := rest
        hung := if s.hung = some .bw then none else s.hung })

/-! ### Reader commands (40, 41) -/

/-- RBOOL returns the next bit, 1 for true, and consumes exactly it (R147). -/
def Obligations.BooleanReadReturnsTheNextBit : Prop :=
  ReturnsNextBits .rbool 1 fun bits => zext64 (bitsToNat bits)

/-- RU8, RU16, RU32, RU64 at every legal length return the next `len` bits, the first most significant, zero-extended, and
consume exactly them (R148, R149, R150, R152). -/
def Obligations.UnsignedReadsReturnTheNextBits : Prop :=
  (∀ len, 1 ≤ len → len ≤ 8 → ReturnsNextBits (.ru8 len) len fun bits => zext64 (bitsToNat bits)) ∧
    (∀ len, 1 ≤ len → len ≤ 16 → ReturnsNextBits (.ru16 len) len fun bits => zext64 (bitsToNat bits)) ∧
    (∀ len, 1 ≤ len → len ≤ 31 → ReturnsNextBits (.ru32 len) len fun bits => zext64 (bitsToNat bits)) ∧
    (∀ len, 1 ≤ len → len ≤ 63 → ReturnsNextBits (.ru64 len) len fun bits => zext64 (bitsToNat bits))

/-- RS32 and RS64 at every legal length return the next `len` bits read as a `len`-bit two's-complement number,
sign-extended, and consume exactly them (R151, R153). -/
def Obligations.SignedReadsReturnTheTwosComplementReading : Prop :=
  (∀ len, 2 ≤ len → len ≤ 32 → ReturnsNextBits (.rs32 len) len fun bits => sext64 (bitsToInt bits)) ∧
    (∀ len, 2 ≤ len → len ≤ 64 → ReturnsNextBits (.rs64 len) len fun bits => sext64 (bitsToInt bits))

/-- RF32 and RF64 return the next 32 or 64 bits as a pattern, unaltered, the first bit bit 31 or bit 63 (R180, R181). -/
def Obligations.FloatReadsReturnThePattern : Prop :=
  ReturnsNextBits .rf32 32 (fun bits => zext64 (bitsToNat bits)) ∧
    ReturnsNextBits .rf64 64 (fun bits => zext64 (bitsToNat bits))

/-- RLPB reads the count in `scale` bits and then `n` elements of `range` bits: RES is `n`, element `i` stands in EBR at
`i`, zero-extended, entries from `n` on keep their contents, and exactly `scale + n * range` bits are consumed (R183). -/
def Obligations.PrefixedReadDeliversTheElements : Prop :=
  ∀ (s : State) (scale range : Nat), s.br.refuses = false → 1 ≤ scale → scale ≤ 16 → 1 ≤ range → range ≤ 8 →
    scale ≤ (readableBits s.br).length →
    let n := bitsToNat ((readableBits s.br).take scale)
    scale + n * range ≤ (readableBits s.br).length →
    ∃ t, exec (.rlpb scale range) s = .next t ∧ t.response = some { status := .ok, res := zext64 n } ∧
      ConsumesBits (scale + n * range) s.br t.br ∧
      (∀ i, i < n → memPeek t.br.ebr i =
        some (BitVec.ofNat 8 (bitsToNat (((readableBits s.br).drop (scale + i * range)).take range)))) ∧
      (∀ i, n ≤ i → memPeek t.br.ebr i = memPeek s.br.ebr i) ∧ OnlyReader s t

/-- RLPB on a source that ends in the prefix or in an element: the elements read before are already in EBR, every other
entry stays, and the count is not returned (R183, R290). -/
def Obligations.PrefixedReadStopsAtTheSourceEnd : Prop :=
  ∀ (s : State) (scale range : Nat), s.br.refuses = false → 1 ≤ scale → scale ≤ 16 → 1 ≤ range → range ≤ 8 →
    ((readableBits s.br).length < scale ∨
      (readableBits s.br).length < scale + bitsToNat ((readableBits s.br).take scale) * range) →
    let m := ((readableBits s.br).length - scale) / range
    ∃ t, exec (.rlpb scale range) s = .next t ∧ SourceEnded s t ∧
      (∀ i, i < m → memPeek t.br.ebr i =
        some (BitVec.ofNat 8 (bitsToNat (((readableBits s.br).drop (scale + i * range)).take range)))) ∧
      (∀ i, m ≤ i → memPeek t.br.ebr i = memPeek s.br.ebr i)

/-- RALIGN with a positive boundary discards `p + 8 * k` bits, `p` those buffered and `k` the bytes up to the next multiple
of the boundary, returns their number, and leaves the unit on a byte boundary with an aligned counter (R187, R257). -/
def Obligations.ReaderAlignDiscardsToTheBoundary : Prop :=
  ∀ s : State, s.br.refuses = false → 0 < opvInt32 s.opv →
    let bd := (opvInt32 s.opv).toNat
    let bits := (8 - s.br.cur.val) + 8 * ((bd - s.br.cnt % bd) % bd)
    bits ≤ (readableBits s.br).length →
    ∃ t, exec .ralign s = .next t ∧ t.response = some { status := .ok, res := zext64 bits } ∧
      ConsumesBits bits s.br t.br ∧ t.br.cur.val = 8 ∧ t.br.cnt % bd = 0 ∧ t.br.ebr = s.br.ebr ∧ OnlyReader s t

/-- RALIGN on a source that ends before the boundary: the buffered bits and the bytes there are are discarded, then it
ends as every read does (R187, R330). -/
def Obligations.ReaderAlignStopsAtTheSourceEnd : Prop :=
  ∀ s : State, s.br.refuses = false → 0 < opvInt32 s.opv →
    let bd := (opvInt32 s.opv).toNat
    (readableBits s.br).length < (8 - s.br.cur.val) + 8 * ((bd - s.br.cnt % bd) % bd) →
    ∃ t, exec .ralign s = .next t ∧ SourceEnded s t ∧ t.br.ebr = s.br.ebr

/-- RCLOSE discards the buffered bits without a pull and closes the source: Ok sets CLOSED; a failure poisons with its code
and CLOSED = 0; an unanswered close leaves the command unfinished (R188, R283). -/
def Obligations.ReaderCloseAlignsAndCloses : Prop :=
  ∀ s : State, s.br.refuses = false →
    let a := s.br.src.closeAnswers.headD .ok
    let r := { s.br with cur := 8, src := { s.br.src with closeAnswers := s.br.src.closeAnswers.tail,
                                                          events := s.br.src.events ++ [.close a] } }
    exec .rclose s = .next (match a with
      | .ok => { s with br := { r with closed := true }, response := some { status := .ok, res := 0 } }
      | .fail code => { s with br := { r with err := some .channelIOFailure },
                               response := some { status := .error .channelIOFailure, res := zext64 code.toNat } }
      | .noAnswer => { s with br := r, response := none, hung := some .br })

/-- RCNT and WCNT return the counter with status 0 in every state, poisoned and closed units included, and change nothing;
a count of 2^64 or more, which the spec leaves out (R294, U5), has no result and is refused by name (log 11). -/
def Obligations.CounterReadsAlwaysSucceed : Prop :=
  ∀ s : State,
    (s.br.cnt < 2 ^ 64 → exec .rcnt s = .next { s with response := some { status := .ok, res := zext64 s.br.cnt } }) ∧
    (s.bw.cnt < 2 ^ 64 → exec .wcnt s = .next { s with response := some { status := .ok, res := zext64 s.bw.cnt } }) ∧
    (2 ^ 64 ≤ s.br.cnt → exec .rcnt s = .refused .counterBeyond64Bits) ∧
    (2 ^ 64 ≤ s.bw.cnt → exec .wcnt s = .refused .counterBeyond64Bits)

/-- Every value read that needs a bit the source does not deliver: END_OF_STREAM, CHANNEL_IO_FAILURE with the code
unchanged, or an unfinished command, with `R.CUR = 8` and every bit before it consumed (R155, R282, R283). -/
def Obligations.ValueReadsStopAtTheSourceEnd : Prop :=
  StopsAtSourceEnd .rbool 1 ∧
    (∀ len, 1 ≤ len → len ≤ 8 → StopsAtSourceEnd (.ru8 len) len) ∧
    (∀ len, 1 ≤ len → len ≤ 16 → StopsAtSourceEnd (.ru16 len) len) ∧
    (∀ len, 1 ≤ len → len ≤ 31 → StopsAtSourceEnd (.ru32 len) len) ∧
    (∀ len, 2 ≤ len → len ≤ 32 → StopsAtSourceEnd (.rs32 len) len) ∧
    (∀ len, 1 ≤ len → len ≤ 63 → StopsAtSourceEnd (.ru64 len) len) ∧
    (∀ len, 2 ≤ len → len ≤ 64 → StopsAtSourceEnd (.rs64 len) len) ∧
    StopsAtSourceEnd .rf32 32 ∧ StopsAtSourceEnd .rf64 64

/-! ### Writer commands (42, 43) -/

/-- WBOOL writes one bit, 1 for the operand 1 and 0 for the operand 0 (R218). -/
def Obligations.BooleanWriteProducesItsBit : Prop :=
  ∀ opv, opvInt32 opv = 0 ∨ opvInt32 opv = 1 → WritesBits .wbool opv [decide (opvInt32 opv = 1)]

/-- WU8, WU16, WU32, WU64 at every legal length write the `len` bits of every value in 0..2^len - 1, most significant
first (R219, R220, R221, R223). -/
def Obligations.UnsignedWritesProduceTheirBits : Prop :=
  (∀ len opv, 1 ≤ len → len ≤ 8 → 0 ≤ opvInt32 opv → opvInt32 opv < 2 ^ len →
      WritesBits (.wu8 len) opv (intBits len (opvInt32 opv))) ∧
    (∀ len opv, 1 ≤ len → len ≤ 16 → 0 ≤ opvInt32 opv → opvInt32 opv < 2 ^ len →
      WritesBits (.wu16 len) opv (intBits len (opvInt32 opv))) ∧
    (∀ len opv, 1 ≤ len → len ≤ 31 → 0 ≤ opvInt32 opv → opvInt32 opv < 2 ^ len →
      WritesBits (.wu32 len) opv (intBits len (opvInt32 opv))) ∧
    (∀ len opv, 1 ≤ len → len ≤ 63 → 0 ≤ opvInt64 opv → opvInt64 opv < 2 ^ len →
      WritesBits (.wu64 len) opv (intBits len (opvInt64 opv)))

/-- WS32 and WS64 at every legal length write the `len` bits of the two's-complement form of every value in
-2^(len-1)..2^(len-1) - 1, the sign bit first (R222, R224). -/
def Obligations.SignedWritesProduceTheirBits : Prop :=
  (∀ len opv, 2 ≤ len → len ≤ 32 → -2 ^ (len - 1) ≤ opvInt32 opv → opvInt32 opv < 2 ^ (len - 1) →
      WritesBits (.ws32 len) opv (intBits len (opvInt32 opv))) ∧
    (∀ len opv, 2 ≤ len → len ≤ 64 → -2 ^ (len - 1) ≤ opvInt64 opv → opvInt64 opv < 2 ^ (len - 1) →
      WritesBits (.ws64 len) opv (intBits len (opvInt64 opv)))

/-- WF32 and WF64 write every 32-bit or 64-bit pattern as it stands, most significant bit first (R250, R251, R255). -/
def Obligations.FloatWritesProduceThePattern : Prop :=
  (∀ opv, WritesBits .wf32 opv (intBits 32 (opvPattern32 opv : Int))) ∧
    (∀ opv, WritesBits .wf64 opv (intBits 64 (opvPattern64 opv : Int)))

/-- WLPB writes the count in `scale` bits and then the low `range` bits of EBW's entries 0..n-1 as they are when it starts;
an entry the host has not written gives its free value (R252, R31; log 4). -/
def Obligations.PrefixedWriteProducesCountAndElements : Prop :=
  ∀ (s : State) (scale range n : Nat), s.bw.refuses = false → s.bw.cur.val < 8 →
    1 ≤ scale → scale ≤ 16 → 1 ≤ range → range ≤ 8 → opvInt32 s.opv = n → n < 2 ^ scale →
    let bits := intBits scale (n : Int) ++
      (List.range n).flatMap fun i => intBits range ((readEbwEntry s.bw i).toNat : Int)
    acceptsPushes (pushesFor bits.length s.bw) s.bw →
    ∃ t, exec (.wlpb scale range) s = .next t ∧ t.response = some { status := .ok, res := 0 } ∧
      ProducesBits bits s.bw t.bw ∧ OnlyWriter s t

/-- WALIGN with a positive boundary pads `p + 8 * k` zero bits, returns their number, and leaves every bit written at the
sink with an aligned counter (R253, R257, R73). -/
def Obligations.WriterAlignPadsToTheBoundary : Prop :=
  ∀ s : State, s.bw.refuses = false → s.bw.cur.val < 8 → 0 < opvInt32 s.opv →
    let bd := (opvInt32 s.opv).toNat
    let started := if 0 < s.bw.cur.val then 1 else 0
    let bits := (8 - s.bw.cur.val) % 8 + 8 * ((bd - (s.bw.cnt + started) % bd) % bd)
    acceptsPushes (pushesFor bits s.bw) s.bw →
    ∃ t, exec .walign s = .next t ∧ t.response = some { status := .ok, res := zext64 bits } ∧
      ProducesBits (List.replicate bits false) s.bw t.bw ∧ t.bw.cur.val = 0 ∧ t.bw.cnt % bd = 0 ∧ OnlyWriter s t

/-- WCLOSE finishes and pushes the partial byte with zeros and closes the sink: Ok sets CLOSED; a failing close poisons
with its code and CLOSED = 0; an unanswered close leaves the command unfinished (R258). -/
def Obligations.WriterCloseDrainsAndCloses : Prop :=
  ∀ s : State, s.bw.refuses = false → s.bw.cur.val < 8 →
    let bits := (8 - s.bw.cur.val) % 8
    acceptsPushes (pushesFor bits s.bw) s.bw →
    let a := s.bw.snk.closeAnswers.headD .ok
    ∃ w, ProducesBits (List.replicate bits false) s.bw w ∧ w.cur.val = 0 ∧
      let w' := { w with snk := { w.snk with closeAnswers := s.bw.snk.closeAnswers.tail,
                                             events := w.snk.events ++ [.close a] } }
      exec .wclose s = .next (match a with
        | .ok => { s with bw := { w' with closed := true }, response := some { status := .ok, res := 0 } }
        | .fail code => { s with bw := { w' with err := some .channelIOFailure },
                                 response := some { status := .error .channelIOFailure, res := zext64 code.toNat } }
        | .noAnswer => { s with bw := w', response := none, hung := some .bw })

/-- A value write stops at its first push that is not answered Ok: the bytes pushed before stay at the sink and are
counted, the failing one is not, the code comes back unchanged (R210, R226, R283). -/
def Obligations.ValueWritesStopAtAFailedPush : Prop :=
  (∀ opv, opvInt32 opv = 0 ∨ opvInt32 opv = 1 → StopsAtFailedPush .wbool opv [decide (opvInt32 opv = 1)]) ∧
    (∀ i opv, ¬ invalidOperands i opv → ∀ len, i = .wu8 len ∨ i = .wu16 len ∨ i = .wu32 len ∨ i = .ws32 len →
      StopsAtFailedPush i opv (intBits len (opvInt32 opv))) ∧
    (∀ i opv, ¬ invalidOperands i opv → ∀ len, i = .wu64 len ∨ i = .ws64 len →
      StopsAtFailedPush i opv (intBits len (opvInt64 opv))) ∧
    (∀ opv, StopsAtFailedPush .wf32 opv (intBits 32 (opvPattern32 opv : Int))) ∧
    (∀ opv, StopsAtFailedPush .wf64 opv (intBits 64 (opvPattern64 opv : Int)))

/-- WLPB, WALIGN and WCLOSE stop at a failed push in the same way; WCLOSE then makes no close (R253, R258, R283). -/
def Obligations.CompositeWritesStopAtAFailedPush : Prop :=
  ∀ (s : State) (k : Nat) (a : Ack), s.bw.refuses = false → s.bw.cur.val < 8 → acceptsPushes k s.bw →
    s.bw.snk.pushAnswers[k]? = some a → a ≠ .ok →
    (∀ scale range n : Nat, 1 ≤ scale → scale ≤ 16 → 1 ≤ range → range ≤ 8 → opvInt32 s.opv = n → n < 2 ^ scale →
      let bits := intBits scale (n : Int) ++
        (List.range n).flatMap fun i => intBits range ((readEbwEntry s.bw i).toNat : Int)
      k < pushesFor bits.length s.bw → ∃ t, exec (.wlpb scale range) s = .next t ∧ PushFailed bits k a s t) ∧
    (0 < opvInt32 s.opv →
      let bd := (opvInt32 s.opv).toNat
      let started := if 0 < s.bw.cur.val then 1 else 0
      let bits := (8 - s.bw.cur.val) % 8 + 8 * ((bd - (s.bw.cnt + started) % bd) % bd)
      k < pushesFor bits s.bw → ∃ t, exec .walign s = .next t ∧ PushFailed (List.replicate bits false) k a s t) ∧
    (k < pushesFor ((8 - s.bw.cur.val) % 8) s.bw →
      ∃ t, exec .wclose s = .next t ∧ PushFailed (List.replicate ((8 - s.bw.cur.val) % 8) false) k a s t)

/-! ### Errors (60_exceptions.md) -/

/-- Every cause of INVALID_ARGUMENT ends the command with STATUS 1 and RES 0, poisons its unit with code 1 and leaves the
rest of the machine exactly as it was: no bit moved, no transfer made; and the causes are complete: nothing else is ever
answered with INVALID_ARGUMENT (R281). -/
def Obligations.InvalidArgumentsChangeNothingButTheError : Prop :=
  (∀ (i : Instr) (s : State), invalidOperands i s.opv →
    (i.onWriter = false → s.br.refuses = false → exec i s = .next
      { s with br := { s.br with err := some .invalidArgument },
               response := some { status := .error .invalidArgument, res := 0 } }) ∧
    (i.onWriter = true → s.bw.refuses = false → exec i s = .next
      { s with bw := { s.bw with err := some .invalidArgument },
               response := some { status := .error .invalidArgument, res := 0 } })) ∧
  (∀ (i : Instr) (s t : State) (res : Word64), exec i s = .next t →
    t.response = some { status := .error .invalidArgument, res := res } → invalidOperands i s.opv)

/-- A poisoned or closed unit answers REFUSED with RES 0 to every command word, legal or not, but its legal counter read,
and nothing else changes (R285). -/
def Obligations.PoisonedOrClosedUnitsRefuse : Prop :=
  ∀ (s : State) (cmd : Word32), (∀ i, decode cmd = .ok i → isCounterRead i = false) →
    (fieldOp cmd < 128 → (s.br.err ≠ none ∨ s.br.closed = true) →
      runCommand cmd s = .next { s with response := some { status := .refused, res := 0 } }) ∧
    (128 ≤ fieldOp cmd → (s.bw.err ≠ none ∨ s.bw.closed = true) →
      runCommand cmd s = .next { s with response := some { status := .refused, res := 0 } })

/-- The first error stays: what poisons or closes a unit is changed by no step but a reset of that unit, and until then the
unit's whole state and history stay as they are (R114, R285, R288, R291). The one thing apart is the host's own write of one
entry of EBW, which the host may make while no command is unfinished (R68; log 6). -/
def Obligations.RefusingUnitsStayAsTheyAreUntilReset : Prop :=
  ∀ s t : State, step s = .next t →
    (s.br.refuses = true → (∀ a rest, s.host = a :: rest → a ≠ .control .resetReader ∧
        ∀ xs ys, a ≠ .control (.bindReader xs ys)) → t.br = s.br) ∧
    (s.bw.refuses = true → (∀ a rest, s.host = a :: rest → a ≠ .control .resetWriter ∧
        ∀ xs ys, a ≠ .control (.bindWriter xs ys)) →
      (∀ i b rest, s.hung = none → s.host = .control (.writeEbw i b) :: rest →
        t.bw = { s.bw with ebw := memWrite s.bw.ebw i b }) ∧
      ((s.hung ≠ none ∨ ∀ i b rest, s.host ≠ .control (.writeEbw i b) :: rest) → t.bw = s.bw))

/-- Which command can complete with which status: no response outside the table of R299. -/
def Obligations.ResponsesStayInTheStatusTable : Prop :=
  ∀ (i : Instr) (s t : State) (resp : Response), exec i s = .next t → t.response = some resp →
    resp.status.code ∈ statusesOf i ∧ (resp.status ≠ .ok → resp.status.code ≠ 3 → resp.res = 0)

/-- An error's record: a response with status 1 to 4 names the code now in its unit's ERR, which was 0; status 0 and 5
leave ERR of both units as it was; the other unit is not affected (R288). -/
def Obligations.ErrorsAreRecordedInTheirUnit : Prop :=
  ∀ (i : Instr) (s t : State), exec i s = .next t →
    (∀ k res, t.response = some { status := .error k, res := res } →
      (i.onWriter = false → s.br.err = none ∧ t.br.err = some k ∧ t.bw = s.bw) ∧
      (i.onWriter = true → s.bw.err = none ∧ t.bw.err = some k ∧ t.br = s.br)) ∧
    (∀ res, t.response = some { status := .ok, res := res } ∨ t.response = some { status := .refused, res := res } →
      t.br.err = s.br.err ∧ t.bw.err = s.bw.err)

/-! ### Frames and independence -/

/-- The two units share no state: a command of one unit leaves the other exactly as it is, and what it answers and does is
the same whatever the other unit holds (R2, R72). -/
def Obligations.UnitsAreIndependent : Prop :=
  ∀ (i : Instr) (s t : State), exec i s = .next t →
    (i.onWriter = false → t.bw = s.bw ∧ ∀ w, exec i { s with bw := w } = .next { t with bw := w }) ∧
    (i.onWriter = true → t.br = s.br ∧ ∀ r, exec i { s with br := r } = .next { t with br := r })

/-- What no command changes: `CMD` and `OPV` as sampled, the host's list, the byte of the last buffer read, EBW, EBR but
for RLPB (R27, R68), the histories of earlier lives, and the mark of an unfinished command, if the command has a response.
That these fields are there, and that `CMD` and `OPV` are kept, is the model's form: log 2 (`cmd`, `opv`), log 1 (`host`),
logs 7, 16 (`bufferByte`), log 8 (`past`), log 6 (`hung`). -/
def Obligations.CommandsKeepTheRestOfTheMachine : Prop :=
  ∀ (i : Instr) (s t : State), exec i s = .next t →
    t.cmd = s.cmd ∧ t.opv = s.opv ∧ t.host = s.host ∧ t.bufferByte = s.bufferByte ∧ t.bw.ebw = s.bw.ebw ∧
      ((∀ scale range, i ≠ .rlpb scale range) → t.br.ebr = s.br.ebr) ∧ t.br.src.past = s.br.src.past ∧
      t.bw.snk.past = s.bw.snk.past ∧ (t.response ≠ none → t.hung = s.hung)

/-- The counters never decrease under a command, the histories only grow, and no command but a close ends a unit's life
(R22, R26, R77, R294). -/
def Obligations.CountersAndHistoriesOnlyGrow : Prop :=
  ∀ (i : Instr) (s t : State), exec i s = .next t →
    s.br.cnt ≤ t.br.cnt ∧ s.bw.cnt ≤ t.bw.cnt ∧ s.br.src.events <+: t.br.src.events ∧
      s.bw.snk.events <+: t.bw.snk.events ∧ (i ≠ .rclose → t.br.closed = s.br.closed) ∧
      (i ≠ .wclose → t.bw.closed = s.bw.closed)

/-- The ignored bits of `OPV`: an int-class command does the same for two operands that agree in bits 31:0, and a command
that takes no operand does the same for all (R108, U14). -/
def Obligations.IgnoredOperandBitsHaveNoEffect : Prop :=
  ∀ (i : Instr) (s t : State) (opv : Word64), exec i s = .next t →
    ((i = .wbool ∨ i = .wf32 ∨ i = .ralign ∨ i = .walign ∨ (∃ len, i = .wu8 len ∨ i = .wu16 len ∨ i = .wu32 len ∨
        i = .ws32 len) ∨ (∃ scale range, i = .wlpb scale range)) → opvLow opv = opvLow s.opv →
      exec i { s with opv := opv } = .next { t with opv := opv }) ∧
    ((i.onWriter = false ∧ i ≠ .ralign ∨ i = .wclose ∨ i = .wcnt) →
      exec i { s with opv := opv } = .next { t with opv := opv })

/-! ### Equivalences and laws -/

/-- The chunked reads do exactly what the bit-serial read does, from every state and against every source: the same pulls,
value and final unit, and the same raise with the same state left behind (R146). -/
def Obligations.ChunkedReadsEqualTheSerialRead : Prop :=
  (∀ len r, 1 ≤ len → len ≤ 8 → rBits8 len r = rGetBits len r) ∧
    (∀ len r, 1 ≤ len → len ≤ 16 → rU16 len r = rGetBits len r) ∧
    (∀ len r, 1 ≤ len → len ≤ 31 → rU32 len r = rGetBits len r) ∧
    (∀ len r, 1 ≤ len → len ≤ 63 → rU64 len r = rGetBits len r)

/-- The chunked writes do what the bit-serial write does, but for the dead flags after the fast path and the cursor after a
failed fast-path push (R216). For a full window, outside `W_Bit`'s precondition, it rests on the model's choice (log 12). -/
def Obligations.ChunkedWritesEqualTheSerialWrite : Prop :=
  (∀ len v w, 1 ≤ len → len ≤ 8 → 0 ≤ v → v < 2 ^ len → sameWrite (wBits8 len v w) (wPutBits len v w)) ∧
    (∀ len v w, 1 ≤ len → len ≤ 16 → 0 ≤ v → v < 2 ^ len → sameWrite (wU16 len v w) (wPutBits len v w)) ∧
    (∀ len v w, 1 ≤ len → len ≤ 31 → 0 ≤ v → v < 2 ^ len → sameWrite (wU32 len v w) (wPutBits len v w)) ∧
    (∀ len v w, 1 ≤ len → len ≤ 63 → 0 ≤ v → v < 2 ^ len → sameWrite (wU64 len v w) (wPutBits len v w))

/-- Mixed widths see the same bits: reading `m` and then `n` bits gives the high and the low part of reading `m + n` (R65). -/
def Obligations.MixedWidthReadsSeeTheSameBits : Prop :=
  ∀ (m n : Nat) (r : Reader), rGetBits (m + n) r =
    (rGetBits m r).bind fun high r' => (rGetBits n r').bind fun low r'' => .done (high * 2 ^ n + low) r''

/-- A second WALIGN or RALIGN with the same boundary pads or discards nothing (R257: alignment idempotence). -/
def Obligations.AlignIsIdempotent : Prop :=
  (∀ s t : State, s.bw.refuses = false → s.bw.cur.val < 8 → exec .walign s = .next t →
    (∃ res, t.response = some { status := .ok, res := res }) →
    exec .walign t = .next { t with response := some { status := .ok, res := 0 } }) ∧
  (∀ s t : State, s.br.refuses = false → exec .ralign s = .next t →
    (∃ res, t.response = some { status := .ok, res := res }) →
    exec .ralign t = .next { t with response := some { status := .ok, res := 0 } })

/-- A writer's WALIGN and a reader's RALIGN with the same boundary at mirrored positions return the same number (R257). -/
def Obligations.PaddingWrittenIsPaddingSkipped : Prop :=
  ∀ (s t u : State) (x y : Word64), s.bw.refuses = false → s.bw.cur.val < 8 → s.br.refuses = false →
    8 * s.br.cnt + s.br.cur.val = 8 * s.bw.cnt + s.bw.cur.val + 8 → 1 ≤ s.br.cur.val →
    exec .walign s = .next t → t.response = some { status := .ok, res := x } →
    exec .ralign s = .next u → u.response = some { status := .ok, res := y } → x = y

/-- The element buffers: an entry reads back what was written last and every other entry stays (R68); two buffers in
canonical form with the same entries are equal data (the form is the model's, log 4). -/
def Obligations.ElementBuffersReadBackWhatWasWritten : Prop :=
  (∀ (m : Memory) (i j : Nat) (b : Byte), memPeek (memWrite m i b) j = if j = i then some b else memPeek m j) ∧
    (∀ m m' : Memory, Memory.wf m → Memory.wf m' → (∀ i, memPeek m i = memPeek m' i) → m = m')

/-- The host's buffer accesses: a write sets the entry, a read answers it, neither touches anything else, and an index above
65535 is no entry (R68, R29, R336). That a write is answered with nothing, so that `bufferByte` stays, is the model's choice,
which R336 leaves open (log 16); that each is an action, and the fault, are log 7. -/
def Obligations.HostBufferAccesses : Prop :=
  ∀ (s : State) (rest : List HostAction) (i : Nat) (b : Byte), s.hung = none →
    (s.host = .control (.writeEbw i b) :: rest → step s = if i < 65536 then
      .next { s with host := rest, bw := { s.bw with ebw := memWrite s.bw.ebw i b } } else .fault .elementIndexOutOfRange) ∧
    (s.host = .control (.readEbw i) :: rest → step s = if i < 65536 then
      .next { s with host := rest, bufferByte := some (readEbwEntry s.bw i) } else .fault .elementIndexOutOfRange) ∧
    (s.host = .control (.readEbr i) :: rest → step s = if i < 65536 then
      .next { s with host := rest, bufferByte := some (readEbrEntry s.br i) } else .fault .elementIndexOutOfRange)

/-! ### Invariants and headline results -/

/-- The machine after reset meets the invariant. -/
def Obligations.ResetMeetsTheInvariant : Prop := State.reset.Inv

/-- Every step keeps the invariant: the cursors stay in their ranges between commands, the counters count the bytes of the
unit's history, the reader's window is the last byte pulled, EBR and EBW stay canonical, a closed unit is clean, and a
unit closes its channel at most once in a life (R20, R21, R22, R63, R294, R323); the last transfer of the unit whose command
is unfinished has no answer, and there is no response meanwhile (R334). -/
def Obligations.EveryStepKeepsTheInvariant : Prop :=
  ∀ s t : State, s.Inv → step s = .next t → t.Inv

/-- "A command completes if and only if every channel transfer it makes is answered" (R334): `exec` never stops the machine,
but for a counter of 2^64 or more (R294, log 11); it has a response exactly when the transfers the command made were all
answered; and without one its unit is marked as waiting (log 6) and the last transfer of that unit has no answer. -/
def Obligations.CommandsNeverStopTheMachine : Prop :=
  ∀ (i : Instr) (s : State), s.br.cnt < 2 ^ 64 → s.bw.cnt < 2 ^ 64 →
    ∃ t, exec i s = .next t ∧
      (i.onWriter = false → (t.response ≠ none ↔
        ∀ e ∈ t.br.src.events.drop s.br.src.events.length, e.answered = true)) ∧
      (i.onWriter = true → (t.response ≠ none ↔
        ∀ e ∈ t.bw.snk.events.drop s.bw.snk.events.length, e.answered = true)) ∧
      (t.response = none → t.hung = some (unitOfInstr i) ∧ t.waitsFor (unitOfInstr i))

/-- Round trip (R227): a writer as after reset (no error, not closed, nothing pending, no transfer in its life) executes value
commands, each with status 0, and drains with WALIGN or WCLOSE; a reader as after reset whose source is the pushed bytes
executes the mirror sequence; every read returns the value written. -/
def Obligations.MirroredReadsReturnTheValuesWritten : Prop :=
  ∀ (prog : List (Instr × Word64)) (mirror : List Instr) (drain : Instr) (s t u r : State) (vs : List Word64)
      (opv res : Word64),
    prog.map (fun p => mirrorOf p.1) = mirror.map some → (drain = .walign ∨ drain = .wclose) →
    s.bw.cur.val = 0 → s.bw.err = none → s.bw.closed = false → s.bw.snk.events = [] →
    runAll prog s = some (vs, t) →
    exec drain { t with opv := opv } = .next u → u.response = some { status := .ok, res := res } →
    r.br.cur.val = 8 → r.br.err = none → r.br.closed = false →
    r.br.src.answers = (pushedBytes u.bw.snk.events).map PullAnswer.byte →
    ∃ v, runAll (mirror.map fun i => (i, 0)) r = some (prog.map fun p => valueGiven p.1 p.2, v)
end

