-- ==== Sys2Proof/Laws/State.lean ====
section
/-!
SUPPORT. One lemma per field per named update of State, so that no later proof unfolds a record update. Each is true by
`rfl`, but for those of `abandon`, whose update has a condition.
-/
namespace Sys2Proof.Machine

/-! ### setBr -/

@[simp] theorem State.setBr_br (s : State) (r : Reader) : (s.setBr r).br = r := rfl
@[simp] theorem State.setBr_bw (s : State) (r : Reader) : (s.setBr r).bw = s.bw := rfl
@[simp] theorem State.setBr_cmd (s : State) (r : Reader) : (s.setBr r).cmd = s.cmd := rfl
@[simp] theorem State.setBr_opv (s : State) (r : Reader) : (s.setBr r).opv = s.opv := rfl
@[simp] theorem State.setBr_response (s : State) (r : Reader) : (s.setBr r).response = s.response := rfl
@[simp] theorem State.setBr_hung (s : State) (r : Reader) : (s.setBr r).hung = s.hung := rfl
@[simp] theorem State.setBr_host (s : State) (r : Reader) : (s.setBr r).host = s.host := rfl
@[simp] theorem State.setBr_bufferByte (s : State) (r : Reader) : (s.setBr r).bufferByte = s.bufferByte := rfl

/-! ### setBw -/

@[simp] theorem State.setBw_br (s : State) (w : Writer) : (s.setBw w).br = s.br := rfl
@[simp] theorem State.setBw_bw (s : State) (w : Writer) : (s.setBw w).bw = w := rfl
@[simp] theorem State.setBw_cmd (s : State) (w : Writer) : (s.setBw w).cmd = s.cmd := rfl
@[simp] theorem State.setBw_opv (s : State) (w : Writer) : (s.setBw w).opv = s.opv := rfl
@[simp] theorem State.setBw_response (s : State) (w : Writer) : (s.setBw w).response = s.response := rfl
@[simp] theorem State.setBw_hung (s : State) (w : Writer) : (s.setBw w).hung = s.hung := rfl
@[simp] theorem State.setBw_host (s : State) (w : Writer) : (s.setBw w).host = s.host := rfl
@[simp] theorem State.setBw_bufferByte (s : State) (w : Writer) : (s.setBw w).bufferByte = s.bufferByte := rfl

/-! ### respond -/

@[simp] theorem State.respond_br (s : State) (st : Status) (v : Word64) : (s.respond st v).br = s.br := rfl
@[simp] theorem State.respond_bw (s : State) (st : Status) (v : Word64) : (s.respond st v).bw = s.bw := rfl
@[simp] theorem State.respond_cmd (s : State) (st : Status) (v : Word64) : (s.respond st v).cmd = s.cmd := rfl
@[simp] theorem State.respond_opv (s : State) (st : Status) (v : Word64) : (s.respond st v).opv = s.opv := rfl
@[simp] theorem State.respond_response (s : State) (st : Status) (v : Word64) :
    (s.respond st v).response = some { status := st, res := v } := rfl
@[simp] theorem State.respond_hung (s : State) (st : Status) (v : Word64) : (s.respond st v).hung = s.hung := rfl
@[simp] theorem State.respond_host (s : State) (st : Status) (v : Word64) : (s.respond st v).host = s.host := rfl
@[simp] theorem State.respond_bufferByte (s : State) (st : Status) (v : Word64) :
    (s.respond st v).bufferByte = s.bufferByte := rfl

/-! ### present -/

@[simp] theorem State.present_br (s : State) (c : Word32) (v : Word64) : (s.present c v).br = s.br := rfl
@[simp] theorem State.present_bw (s : State) (c : Word32) (v : Word64) : (s.present c v).bw = s.bw := rfl
@[simp] theorem State.present_cmd (s : State) (c : Word32) (v : Word64) : (s.present c v).cmd = c := rfl
@[simp] theorem State.present_opv (s : State) (c : Word32) (v : Word64) : (s.present c v).opv = v := rfl
@[simp] theorem State.present_response (s : State) (c : Word32) (v : Word64) :
    (s.present c v).response = s.response := rfl
@[simp] theorem State.present_hung (s : State) (c : Word32) (v : Word64) : (s.present c v).hung = s.hung := rfl
@[simp] theorem State.present_host (s : State) (c : Word32) (v : Word64) : (s.present c v).host = s.host := rfl
@[simp] theorem State.present_bufferByte (s : State) (c : Word32) (v : Word64) :
    (s.present c v).bufferByte = s.bufferByte := rfl

/-! ### answerByte -/

@[simp] theorem State.answerByte_br (s : State) (b : Byte) : (s.answerByte b).br = s.br := rfl
@[simp] theorem State.answerByte_bw (s : State) (b : Byte) : (s.answerByte b).bw = s.bw := rfl
@[simp] theorem State.answerByte_cmd (s : State) (b : Byte) : (s.answerByte b).cmd = s.cmd := rfl
@[simp] theorem State.answerByte_opv (s : State) (b : Byte) : (s.answerByte b).opv = s.opv := rfl
@[simp] theorem State.answerByte_response (s : State) (b : Byte) : (s.answerByte b).response = s.response := rfl
@[simp] theorem State.answerByte_hung (s : State) (b : Byte) : (s.answerByte b).hung = s.hung := rfl
@[simp] theorem State.answerByte_host (s : State) (b : Byte) : (s.answerByte b).host = s.host := rfl
@[simp] theorem State.answerByte_bufferByte (s : State) (b : Byte) : (s.answerByte b).bufferByte = some b := rfl

/-! ### hang -/

@[simp] theorem State.hang_br (s : State) (u : UnitId) : (s.hang u).br = s.br := rfl
@[simp] theorem State.hang_bw (s : State) (u : UnitId) : (s.hang u).bw = s.bw := rfl
@[simp] theorem State.hang_cmd (s : State) (u : UnitId) : (s.hang u).cmd = s.cmd := rfl
@[simp] theorem State.hang_opv (s : State) (u : UnitId) : (s.hang u).opv = s.opv := rfl
@[simp] theorem State.hang_response (s : State) (u : UnitId) : (s.hang u).response = none := rfl
@[simp] theorem State.hang_hung (s : State) (u : UnitId) : (s.hang u).hung = some u := rfl
@[simp] theorem State.hang_host (s : State) (u : UnitId) : (s.hang u).host = s.host := rfl
@[simp] theorem State.hang_bufferByte (s : State) (u : UnitId) : (s.hang u).bufferByte = s.bufferByte := rfl

/-! ### withNextCommand -/

@[simp] theorem State.withNextCommand_br (s : State) (c : Word32) : (s.withNextCommand c).br = s.br := rfl
@[simp] theorem State.withNextCommand_bw (s : State) (c : Word32) : (s.withNextCommand c).bw = s.bw := rfl
@[simp] theorem State.withNextCommand_cmd (s : State) (c : Word32) : (s.withNextCommand c).cmd = s.cmd := rfl
@[simp] theorem State.withNextCommand_opv (s : State) (c : Word32) : (s.withNextCommand c).opv = s.opv := rfl
@[simp] theorem State.withNextCommand_response (s : State) (c : Word32) :
    (s.withNextCommand c).response = s.response := rfl
@[simp] theorem State.withNextCommand_hung (s : State) (c : Word32) : (s.withNextCommand c).hung = none := rfl
@[simp] theorem State.withNextCommand_host (s : State) (c : Word32) :
    (s.withNextCommand c).host = .command c 0 :: s.host := rfl
@[simp] theorem State.withNextCommand_bufferByte (s : State) (c : Word32) :
    (s.withNextCommand c).bufferByte = s.bufferByte := rfl

/-! ### provideSource -/

@[simp] theorem State.provideSource_br (s : State) (xs : List PullAnswer) (ys : List Ack) :
    (s.provideSource xs ys).br = { s.br with src := { s.br.src with answers := xs, closeAnswers := ys } } := rfl
@[simp] theorem State.provideSource_bw (s : State) (xs : List PullAnswer) (ys : List Ack) :
    (s.provideSource xs ys).bw = s.bw := rfl
@[simp] theorem State.provideSource_cmd (s : State) (xs : List PullAnswer) (ys : List Ack) :
    (s.provideSource xs ys).cmd = s.cmd := rfl
@[simp] theorem State.provideSource_opv (s : State) (xs : List PullAnswer) (ys : List Ack) :
    (s.provideSource xs ys).opv = s.opv := rfl
@[simp] theorem State.provideSource_response (s : State) (xs : List PullAnswer) (ys : List Ack) :
    (s.provideSource xs ys).response = s.response := rfl
@[simp] theorem State.provideSource_hung (s : State) (xs : List PullAnswer) (ys : List Ack) :
    (s.provideSource xs ys).hung = s.hung := rfl
@[simp] theorem State.provideSource_host (s : State) (xs : List PullAnswer) (ys : List Ack) :
    (s.provideSource xs ys).host = s.host := rfl
@[simp] theorem State.provideSource_bufferByte (s : State) (xs : List PullAnswer) (ys : List Ack) :
    (s.provideSource xs ys).bufferByte = s.bufferByte := rfl

/-! ### provideSink -/

@[simp] theorem State.provideSink_br (s : State) (xs ys : List Ack) : (s.provideSink xs ys).br = s.br := rfl
@[simp] theorem State.provideSink_bw (s : State) (xs ys : List Ack) :
    (s.provideSink xs ys).bw = { s.bw with snk := { s.bw.snk with pushAnswers := xs, closeAnswers := ys } } := rfl
@[simp] theorem State.provideSink_cmd (s : State) (xs ys : List Ack) : (s.provideSink xs ys).cmd = s.cmd := rfl
@[simp] theorem State.provideSink_opv (s : State) (xs ys : List Ack) : (s.provideSink xs ys).opv = s.opv := rfl
@[simp] theorem State.provideSink_response (s : State) (xs ys : List Ack) :
    (s.provideSink xs ys).response = s.response := rfl
@[simp] theorem State.provideSink_hung (s : State) (xs ys : List Ack) : (s.provideSink xs ys).hung = s.hung := rfl
@[simp] theorem State.provideSink_host (s : State) (xs ys : List Ack) : (s.provideSink xs ys).host = s.host := rfl
@[simp] theorem State.provideSink_bufferByte (s : State) (xs ys : List Ack) :
    (s.provideSink xs ys).bufferByte = s.bufferByte := rfl

/-! ### setErr and takeError of .br -/

@[simp] theorem State.setErr_br_br (s : State) (k : ErrorKind) :
    (s.setErr .br k).br = { s.br with err := some k } := rfl
@[simp] theorem State.setErr_br_bw (s : State) (k : ErrorKind) : (s.setErr .br k).bw = s.bw := rfl
@[simp] theorem State.setErr_br_cmd (s : State) (k : ErrorKind) : (s.setErr .br k).cmd = s.cmd := rfl
@[simp] theorem State.setErr_br_opv (s : State) (k : ErrorKind) : (s.setErr .br k).opv = s.opv := rfl
@[simp] theorem State.setErr_br_response (s : State) (k : ErrorKind) : (s.setErr .br k).response = s.response := rfl
@[simp] theorem State.setErr_br_hung (s : State) (k : ErrorKind) : (s.setErr .br k).hung = s.hung := rfl
@[simp] theorem State.setErr_br_host (s : State) (k : ErrorKind) : (s.setErr .br k).host = s.host := rfl
@[simp] theorem State.setErr_br_bufferByte (s : State) (k : ErrorKind) :
    (s.setErr .br k).bufferByte = s.bufferByte := rfl
@[simp] theorem State.takeError_br_br (s : State) (e : Raise) :
    (s.takeError .br e).br = { s.br with err := some e.kind } := rfl
@[simp] theorem State.takeError_br_bw (s : State) (e : Raise) : (s.takeError .br e).bw = s.bw := rfl
@[simp] theorem State.takeError_br_cmd (s : State) (e : Raise) : (s.takeError .br e).cmd = s.cmd := rfl
@[simp] theorem State.takeError_br_opv (s : State) (e : Raise) : (s.takeError .br e).opv = s.opv := rfl
@[simp] theorem State.takeError_br_response (s : State) (e : Raise) :
    (s.takeError .br e).response = some { status := .error e.kind, res := e.res } := rfl
@[simp] theorem State.takeError_br_hung (s : State) (e : Raise) : (s.takeError .br e).hung = s.hung := rfl
@[simp] theorem State.takeError_br_host (s : State) (e : Raise) : (s.takeError .br e).host = s.host := rfl
@[simp] theorem State.takeError_br_bufferByte (s : State) (e : Raise) :
    (s.takeError .br e).bufferByte = s.bufferByte := rfl

/-! ### setErr and takeError of .bw -/

@[simp] theorem State.setErr_bw_br (s : State) (k : ErrorKind) : (s.setErr .bw k).br = s.br := rfl
@[simp] theorem State.setErr_bw_bw (s : State) (k : ErrorKind) :
    (s.setErr .bw k).bw = { s.bw with err := some k } := rfl
@[simp] theorem State.setErr_bw_cmd (s : State) (k : ErrorKind) : (s.setErr .bw k).cmd = s.cmd := rfl
@[simp] theorem State.setErr_bw_opv (s : State) (k : ErrorKind) : (s.setErr .bw k).opv = s.opv := rfl
@[simp] theorem State.setErr_bw_response (s : State) (k : ErrorKind) : (s.setErr .bw k).response = s.response := rfl
@[simp] theorem State.setErr_bw_hung (s : State) (k : ErrorKind) : (s.setErr .bw k).hung = s.hung := rfl
@[simp] theorem State.setErr_bw_host (s : State) (k : ErrorKind) : (s.setErr .bw k).host = s.host := rfl
@[simp] theorem State.setErr_bw_bufferByte (s : State) (k : ErrorKind) :
    (s.setErr .bw k).bufferByte = s.bufferByte := rfl
@[simp] theorem State.takeError_bw_br (s : State) (e : Raise) : (s.takeError .bw e).br = s.br := rfl
@[simp] theorem State.takeError_bw_bw (s : State) (e : Raise) :
    (s.takeError .bw e).bw = { s.bw with err := some e.kind } := rfl
@[simp] theorem State.takeError_bw_cmd (s : State) (e : Raise) : (s.takeError .bw e).cmd = s.cmd := rfl
@[simp] theorem State.takeError_bw_opv (s : State) (e : Raise) : (s.takeError .bw e).opv = s.opv := rfl
@[simp] theorem State.takeError_bw_response (s : State) (e : Raise) :
    (s.takeError .bw e).response = some { status := .error e.kind, res := e.res } := rfl
@[simp] theorem State.takeError_bw_hung (s : State) (e : Raise) : (s.takeError .bw e).hung = s.hung := rfl
@[simp] theorem State.takeError_bw_host (s : State) (e : Raise) : (s.takeError .bw e).host = s.host := rfl
@[simp] theorem State.takeError_bw_bufferByte (s : State) (e : Raise) :
    (s.takeError .bw e).bufferByte = s.bufferByte := rfl

/-! ### abandon -/

@[simp] theorem State.abandon_br (s : State) (u : UnitId) : (s.abandon u).br = s.br := by
  unfold State.abandon; split <;> rfl
@[simp] theorem State.abandon_bw (s : State) (u : UnitId) : (s.abandon u).bw = s.bw := by
  unfold State.abandon; split <;> rfl
@[simp] theorem State.abandon_cmd (s : State) (u : UnitId) : (s.abandon u).cmd = s.cmd := by
  unfold State.abandon; split <;> rfl
@[simp] theorem State.abandon_opv (s : State) (u : UnitId) : (s.abandon u).opv = s.opv := by
  unfold State.abandon; split <;> rfl
@[simp] theorem State.abandon_response (s : State) (u : UnitId) : (s.abandon u).response = s.response := by
  unfold State.abandon; split <;> rfl
@[simp] theorem State.abandon_hung (s : State) (u : UnitId) :
    (s.abandon u).hung = if s.hung = some u then none else s.hung := by
  unfold State.abandon; split <;> rfl
@[simp] theorem State.abandon_host (s : State) (u : UnitId) : (s.abandon u).host = s.host := by
  unfold State.abandon; split <;> rfl
@[simp] theorem State.abandon_bufferByte (s : State) (u : UnitId) : (s.abandon u).bufferByte = s.bufferByte := by
  unfold State.abandon; split <;> rfl

/-! ### resetReader -/

@[simp] theorem State.resetReader_br (s : State) : s.resetReader.br = Reader.fresh s.br.src.newLife := by
  simp [State.resetReader]
@[simp] theorem State.resetReader_bw (s : State) : s.resetReader.bw = s.bw := by
  simp [State.resetReader]
@[simp] theorem State.resetReader_cmd (s : State) : s.resetReader.cmd = s.cmd := by
  simp [State.resetReader]
@[simp] theorem State.resetReader_opv (s : State) : s.resetReader.opv = s.opv := by
  simp [State.resetReader]
@[simp] theorem State.resetReader_response (s : State) : s.resetReader.response = s.response := by
  simp [State.resetReader]
@[simp] theorem State.resetReader_hung (s : State) :
    s.resetReader.hung = if s.hung = some .br then none else s.hung :=
  State.abandon_hung _ .br
@[simp] theorem State.resetReader_host (s : State) : s.resetReader.host = s.host := by
  simp [State.resetReader]
@[simp] theorem State.resetReader_bufferByte (s : State) : s.resetReader.bufferByte = s.bufferByte := by
  simp [State.resetReader]

/-! ### resetWriter -/

@[simp] theorem State.resetWriter_br (s : State) : s.resetWriter.br = s.br := by
  simp [State.resetWriter]
@[simp] theorem State.resetWriter_bw (s : State) : s.resetWriter.bw = Writer.fresh s.bw.snk.newLife := by
  simp [State.resetWriter]
@[simp] theorem State.resetWriter_cmd (s : State) : s.resetWriter.cmd = s.cmd := by
  simp [State.resetWriter]
@[simp] theorem State.resetWriter_opv (s : State) : s.resetWriter.opv = s.opv := by
  simp [State.resetWriter]
@[simp] theorem State.resetWriter_response (s : State) : s.resetWriter.response = s.response := by
  simp [State.resetWriter]
@[simp] theorem State.resetWriter_hung (s : State) :
    s.resetWriter.hung = if s.hung = some .bw then none else s.hung :=
  State.abandon_hung _ .bw
@[simp] theorem State.resetWriter_host (s : State) : s.resetWriter.host = s.host := by
  simp [State.resetWriter]
@[simp] theorem State.resetWriter_bufferByte (s : State) : s.resetWriter.bufferByte = s.bufferByte := by
  simp [State.resetWriter]

/-! ### The units after reset -/

@[simp] theorem Reader.fresh_win (k : Source) : (Reader.fresh k).win = resetWindow := rfl
@[simp] theorem Reader.fresh_cur (k : Source) : (Reader.fresh k).cur = 8 := rfl
@[simp] theorem Reader.fresh_cnt (k : Source) : (Reader.fresh k).cnt = 0 := rfl
@[simp] theorem Reader.fresh_err (k : Source) : (Reader.fresh k).err = none := rfl
@[simp] theorem Reader.fresh_closed (k : Source) : (Reader.fresh k).closed = false := rfl
@[simp] theorem Reader.fresh_ebr (k : Source) : (Reader.fresh k).ebr = [] := rfl
@[simp] theorem Reader.fresh_src (k : Source) : (Reader.fresh k).src = k := rfl
@[simp] theorem Writer.fresh_win (k : Sink) : (Writer.fresh k).win = resetWindow := rfl
@[simp] theorem Writer.fresh_cur (k : Sink) : (Writer.fresh k).cur = 0 := rfl
@[simp] theorem Writer.fresh_cnt (k : Sink) : (Writer.fresh k).cnt = 0 := rfl
@[simp] theorem Writer.fresh_err (k : Sink) : (Writer.fresh k).err = none := rfl
@[simp] theorem Writer.fresh_closed (k : Sink) : (Writer.fresh k).closed = false := rfl
@[simp] theorem Writer.fresh_ebw (k : Sink) : (Writer.fresh k).ebw = [] := rfl
@[simp] theorem Writer.fresh_snk (k : Sink) : (Writer.fresh k).snk = k := rfl
@[simp] theorem Source.newLife_answers (k : Source) : k.newLife.answers = k.answers := rfl
@[simp] theorem Source.newLife_closeAnswers (k : Source) : k.newLife.closeAnswers = k.closeAnswers := rfl
@[simp] theorem Source.newLife_events (k : Source) : k.newLife.events = [] := rfl
@[simp] theorem Source.newLife_past (k : Source) : k.newLife.past = k.past ++ [k.events] := rfl
@[simp] theorem Sink.newLife_pushAnswers (k : Sink) : k.newLife.pushAnswers = k.pushAnswers := rfl
@[simp] theorem Sink.newLife_closeAnswers (k : Sink) : k.newLife.closeAnswers = k.closeAnswers := rfl
@[simp] theorem Sink.newLife_events (k : Sink) : k.newLife.events = [] := rfl
@[simp] theorem Sink.newLife_past (k : Sink) : k.newLife.past = k.past ++ [k.events] := rfl

/-- Reset's memories are in canonical form. -/
theorem State.reset_buffers_wf : Memory.wf State.reset.br.ebr ∧ Memory.wf State.reset.bw.ebw := by decide

end Sys2Proof.Machine
end

