-- ==== Sys2Proof/Laws/Ops.lean ====
section
/-!
SUPPORT. For each shared operation, what it can do: sequencing, windows and bytes, element buffers, channel transfers, the
wrapper of R110, the rejection of illegal words, the host's side.
-/
namespace Sys2Proof.Machine

/-! ### Sequencing -/

@[simp] theorem Res.bind_done {σ α β : Type} (v : α) (s : σ) (f : α → σ → Res σ β) :
    (Res.done v s).bind f = f v s := rfl

@[simp] theorem Res.bind_raise {σ α β : Type} (e : Raise) (s : σ) (f : α → σ → Res σ β) :
    (Res.raise e s).bind f = .raise e s := rfl

@[simp] theorem Res.bind_hang {σ α β : Type} (s : σ) (f : α → σ → Res σ β) : (Res.hang s).bind f = .hang s := rfl

@[simp] theorem Res.bind_assoc {σ α β γ : Type} (x : Res σ α) (f : α → σ → Res σ β) (g : β → σ → Res σ γ) :
    (x.bind f).bind g = x.bind fun a s => (f a s).bind g := by
  cases x <;> rfl

/-! ### Windows -/

theorem nextCur_val (c : Fin 9) (h : c.val < 8) : (nextCur c).val = c.val + 1 := by simp [nextCur, h]

theorem window_eq (w : Window) : w = #v[w[0], w[1], w[2], w[3], w[4], w[5], w[6], w[7]] := by
  apply Vector.ext
  intro i hi
  interval_cases i <;> rfl

/-- R9: the two views of a byte are inverse. -/
@[simp] theorem flagsOf_byteOf (w : Window) : flagsOf (byteOf w) = w := by
  rw [window_eq w]
  generalize w[0] = a, w[1] = b, w[2] = c, w[3] = d, w[4] = e, w[5] = f, w[6] = g, w[7] = h
  revert a b c d e f g h
  decide

theorem drop_eq_flagAt_cons (w : Window) (c : Fin 9) (h : c.val < 8) :
    w.toList.drop c.val = flagAt w c :: w.toList.drop (nextCur c).val := by
  rw [nextCur_val _ h, List.drop_eq_getElem_cons (by simpa using h)]
  simp [flagAt, h]

theorem take_setFlagAt (w : Window) (c : Fin 9) (b : Bool) (h : c.val < 8) :
    (setFlagAt w c b).toList.take (nextCur c).val = w.toList.take c.val ++ [b] := by
  simp only [nextCur_val _ h, setFlagAt, dif_pos h]
  rw [Vector.toList_set, List.take_succ_eq_append_getElem (by simpa using h)]
  simp [List.take_set, List.set_eq_of_length_le]

/-! ### Element buffers -/

theorem mem_of_mem_memWrite (m : Memory) (i : Nat) (b : Byte) (c : Host.Cell) (hc : c ∈ memWrite m i b) :
    c = (i, b) ∨ c ∈ m := by
  induction m with
  | nil => simpa [memWrite] using hc
  | cons d m ih =>
    obtain ⟨a, v⟩ := d
    unfold memWrite at hc
    split at hc
    · simpa using hc
    · split at hc
      · rcases List.mem_cons.1 hc with h | h <;> simp [h]
      · rcases List.mem_cons.1 hc with h | h
        · simp [h]
        · rcases ih h with h | h <;> simp [h]

/-- R68: every memory operation keeps the canonical form of a buffer. -/
theorem memWrite_wf (m : Memory) (i : Nat) (b : Byte) (h : Memory.wf m) (hi : i < Config.ebSize) :
    Memory.wf (memWrite m i b) := by
  refine ⟨?_, fun c hc => ?_⟩
  · obtain ⟨sorted, -⟩ := h
    induction m with
    | nil => simp [memWrite]
    | cons c m ih =>
      obtain ⟨a, v⟩ := c
      simp only [List.map_cons, List.pairwise_cons] at sorted
      unfold memWrite
      split
      · rename_i lt
        simp only [List.map_cons, List.pairwise_cons]
        refine ⟨fun x hx => ?_, sorted⟩
        rcases List.mem_cons.1 hx with rfl | hx
        · exact lt
        · exact lt.trans (sorted.1 x hx)
      · split
        · rename_i eq
          subst eq
          simpa using sorted
        · rename_i nlt ne
          simp only [List.map_cons, List.pairwise_cons]
          refine ⟨fun x hx => ?_, ih sorted.2⟩
          obtain ⟨c, hc, rfl⟩ := List.mem_map.1 hx
          rcases mem_of_mem_memWrite m i b c hc with rfl | hc
          · simp only
            omega
          · exact sorted.1 _ (List.mem_map_of_mem hc)
  · rcases mem_of_mem_memWrite m i b c hc with rfl | hc
    · exact hi
    · exact h.2 c hc

/-! ### Channel transfers -/

theorem srcPull_eq (k : Source) : srcPull k = (k.answers.headD .endOfData,
    { k with answers := k.answers.tail, events := k.events ++ [.pull (k.answers.headD .endOfData)] }) := by
  cases h : k.answers <;> simp [srcPull, h]

theorem srcClose_eq (k : Source) : srcClose k = (k.closeAnswers.headD .ok,
    { k with closeAnswers := k.closeAnswers.tail, events := k.events ++ [.close (k.closeAnswers.headD .ok)] }) := by
  cases h : k.closeAnswers <;> simp [srcClose, h]

theorem sinkPush_eq (b : Byte) (k : Sink) : sinkPush b k = (k.pushAnswers.headD .ok,
    { k with pushAnswers := k.pushAnswers.tail, events := k.events ++ [.push b (k.pushAnswers.headD .ok)] }) := by
  cases h : k.pushAnswers <;> simp [sinkPush, h]

theorem sinkClose_eq (k : Sink) : sinkClose k = (k.closeAnswers.headD .ok,
    { k with closeAnswers := k.closeAnswers.tail, events := k.events ++ [.close (k.closeAnswers.headD .ok)] }) := by
  cases h : k.closeAnswers <;> simp [sinkClose, h]

/-! ### Units that accept commands -/

theorem Reader.refuses_eq_false (r : Reader) : r.refuses = false ↔ r.err = none ∧ r.closed = false := by
  cases h : r.err <;> simp [Reader.refuses, poisonedOrClosed, h]

theorem Writer.refuses_eq_false (w : Writer) : w.refuses = false ↔ w.err = none ∧ w.closed = false := by
  cases h : w.err <;> simp [Writer.refuses, poisonedOrClosed, h]

/-! ### The wrapper of R110 -/

/-- Everything a BR command can do to the machine. -/
theorem runReader_cases {sem : Reader → Res Reader Word64} {s t : State} (h : runReader sem s = .next t) :
    (s.br.refuses = true ∧ t = s.respond .refused 0) ∨
    (s.br.refuses = false ∧
      ((∃ v r, sem s.br = .done v r ∧ t = (s.setBr r).respond .ok v) ∨
        (∃ e r, sem s.br = .raise e r ∧ t = (s.setBr r).takeError .br e) ∨
        (∃ r, sem s.br = .hang r ∧ t = (s.setBr r).hang .br))) := by
  unfold runReader at h
  split at h
  · exact .inl ⟨‹_›, by simpa using h.symm⟩
  · refine .inr ⟨eq_false_of_ne_true ‹_›, ?_⟩
    split at h <;> rename_i eq <;> cases h
    · exact .inl ⟨_, _, eq, rfl⟩
    · exact .inr (.inl ⟨_, _, eq, rfl⟩)
    · exact .inr (.inr ⟨_, eq, rfl⟩)

/-- Everything a BW command can do to the machine. -/
theorem runWriter_cases {sem : Writer → Res Writer Word64} {s t : State} (h : runWriter sem s = .next t) :
    (s.bw.refuses = true ∧ t = s.respond .refused 0) ∨
    (s.bw.refuses = false ∧
      ((∃ v w, sem s.bw = .done v w ∧ t = (s.setBw w).respond .ok v) ∨
        (∃ e w, sem s.bw = .raise e w ∧ t = (s.setBw w).takeError .bw e) ∨
        (∃ w, sem s.bw = .hang w ∧ t = (s.setBw w).hang .bw))) := by
  unfold runWriter at h
  split at h
  · exact .inl ⟨‹_›, by simpa using h.symm⟩
  · refine .inr ⟨eq_false_of_ne_true ‹_›, ?_⟩
    split at h <;> rename_i eq <;> cases h
    · exact .inl ⟨_, _, eq, rfl⟩
    · exact .inr (.inl ⟨_, _, eq, rfl⟩)
    · exact .inr (.inr ⟨_, eq, rfl⟩)

/-- Everything a counter read can do to the machine. -/
theorem runCounter_cases {cnt : Nat} {s t : State} (h : runCounter cnt s = .next t) :
    cnt < 2 ^ 64 ∧ t = s.respond .ok (zext64 cnt) := by
  unfold runCounter at h
  split at h <;> cases h
  exact ⟨‹_›, rfl⟩

/-- Everything an illegal word can do to the machine (R284, R110). -/
theorem rejectIllegal_cases {cmd : Word32} {s t : State} (h : rejectIllegal cmd s = .next t) :
    (s.unitRefuses (unitOf cmd) = true ∧ t = s.respond .refused 0) ∨
    (s.unitRefuses (unitOf cmd) = false ∧ t = s.takeError (unitOf cmd) .illegalCommand) := by
  unfold rejectIllegal at h
  split at h <;> cases h
  · exact .inl ⟨‹_›, rfl⟩
  · exact .inr ⟨eq_false_of_ne_true ‹_›, rfl⟩

/-! ### The host's side -/

/-- The action a step takes is the head of the host's list, and only a reset while a command is unfinished. -/
theorem nextAction_cases {s s' : State} {a : HostAction} (h : nextAction s = some (a, s')) :
    ∃ rest, s.host = a :: rest ∧ s' = { s with host := rest } ∧ (s.hung.isSome = true → a.isReset = true) := by
  unfold nextAction at h
  split at h
  · cases h
  · rename_i b rest host
    split at h
    · cases h
    · rename_i waits
      simp only [Option.some.injEq, Prod.mk.injEq] at h
      obtain ⟨rfl, rfl⟩ := h
      exact ⟨rest, host, rfl, by simpa using waits⟩

/-- Everything a step can do: stay, run the decoded instruction, reject an illegal word, or let the host act. -/
theorem step_cases {s t : State} (h : step s = .next t) :
    t = s ∨ ∃ a s', nextAction s = some (a, s') ∧
      ((∃ cmd opv, a = .command cmd opv ∧
          ((∃ i, decode cmd = .ok i ∧ exec i (s'.present cmd opv) = .next t) ∨
            ((∃ e, decode cmd = .error e) ∧ rejectIllegal cmd (s'.present cmd opv) = .next t))) ∨
        ∃ c, a = .control c ∧ hostControl c s' = .next t) := by
  unfold step at h
  split at h
  · cases h
    exact .inl rfl
  · rename_i cmd opv s' eq
    refine .inr ⟨_, _, eq, .inl ⟨cmd, opv, rfl, ?_⟩⟩
    unfold runCommand at h
    split at h
    · exact .inl ⟨_, ‹_›, h⟩
    · exact .inr ⟨⟨_, ‹_›⟩, h⟩
  · rename_i c s' eq
    exact .inr ⟨_, _, eq, .inr ⟨c, rfl, h⟩⟩

end Sys2Proof.Machine
end

