-- ==== Sys2Proof/Laws/Exec.lean ====
section
/-!
SUPPORT. The shape of `exec`: every command but the counter reads runs its `Sem` inside the wrapper of its unit (R110).
-/
namespace Sys2Proof.Machine

/-- The four kinds of command. -/
theorem Instr.kinds (i : Instr) :
    (i.onWriter = false ∧ i ≠ .rcnt) ∨ (i.onWriter = true ∧ i ≠ .wcnt) ∨ i = .rcnt ∨ i = .wcnt := by
  cases i <;> simp [Instr.onWriter, opcodeOf]

/-- A BR command depends on `OPV` and acts on BR alone. -/
theorem exec_reader (i : Instr) (h : i.onWriter = false) (ne : i ≠ .rcnt) :
    ∃ sem : Word64 → Reader → Res Reader Word64, ∀ s, exec i s = runReader (sem s.opv) s := by
  cases i <;> first
    | exact ⟨fun _ => _, fun _ => rfl⟩
    | exact ⟨semRalign, fun _ => rfl⟩
    | simp_all [Instr.onWriter, opcodeOf]

/-- A BW command depends on `OPV` and acts on BW alone. -/
theorem exec_writer (i : Instr) (h : i.onWriter = true) (ne : i ≠ .wcnt) :
    ∃ sem : Word64 → Writer → Res Writer Word64, ∀ s, exec i s = runWriter (sem s.opv) s := by
  cases i with
  | wbool => exact ⟨semWbool, fun _ => rfl⟩
  | wu8 len => exact ⟨semWu8 len, fun _ => rfl⟩
  | wu16 len => exact ⟨semWu16 len, fun _ => rfl⟩
  | wu32 len => exact ⟨semWu32 len, fun _ => rfl⟩
  | ws32 len => exact ⟨semWs32 len, fun _ => rfl⟩
  | wu64 len => exact ⟨semWu64 len, fun _ => rfl⟩
  | ws64 len => exact ⟨semWs64 len, fun _ => rfl⟩
  | wf32 => exact ⟨semWf32, fun _ => rfl⟩
  | wf64 => exact ⟨semWf64, fun _ => rfl⟩
  | wlpb scale range => exact ⟨semWlpb scale range, fun _ => rfl⟩
  | walign => exact ⟨semWalign, fun _ => rfl⟩
  | wclose => exact ⟨fun _ => semWclose, fun _ => rfl⟩
  | _ => simp_all [Instr.onWriter, opcodeOf]

end Sys2Proof.Machine
end

