-- ==== Sys2Proof/Laws/Operands.lean ====
section
/-!
SUPPORT. What the operations on integers and bit lists do: the ranges of R6 and R217, the low-order bits of R10, the
readings of R65.
-/
namespace Sys2Proof.Machine

theorem inRange_iff (lo hi x : Nat) : inRange lo hi x = true ↔ lo ≤ x ∧ x ≤ hi := by simp [inRange]

/-- R217: `FitsU` is the range 0..2^len - 1. -/
theorem fitsU_iff (len : Nat) (v : Int) : fitsU len v = true ↔ 0 ≤ v ∧ v < 2 ^ len := by
  unfold fitsU asr
  rw [decide_eq_true_iff]
  push_cast
  have pos : (0 : Int) < 2 ^ len := by positivity
  refine ⟨fun quot => ?_, fun ⟨low, high⟩ => Int.ediv_eq_zero_of_lt low high⟩
  have whole := Int.emod_add_mul_ediv v (2 ^ len)
  have nonneg := Int.emod_nonneg v pos.ne'
  have below := Int.emod_lt_of_pos v pos
  rw [quot] at whole
  simp at whole
  omega

/-- R217: `FitsS` is the range -2^(len-1)..2^(len-1) - 1, and every value at the full width. -/
theorem fitsS_iff (len max : Nat) (v : Int) :
    fitsS len v max = true ↔ len = max ∨ (-2 ^ (len - 1) ≤ v ∧ v < 2 ^ (len - 1)) := by
  unfold fitsS asr
  rw [decide_eq_true_iff]
  push_cast
  have pos : (0 : Int) < 2 ^ (len - 1) := by positivity
  refine or_congr Iff.rfl ?_
  generalize (2 : Int) ^ (len - 1) = p at pos
  have whole := Int.emod_add_mul_ediv v p
  have nonneg := Int.emod_nonneg v pos.ne'
  have below := Int.emod_lt_of_pos v pos
  constructor
  · intro quot
    rw [quot] at whole
    split at whole <;> simp at whole <;> omega
  · rintro ⟨low, high⟩
    split
    · exact ((Int.ediv_emod_unique (r := v + p) (q := -1) pos).mpr ⟨by ring, by omega, by omega⟩).1
    · exact Int.ediv_eq_zero_of_lt (by omega) high

theorem opvInt32_range (opv : Word64) : -2 ^ 31 ≤ opvInt32 opv ∧ opvInt32 opv < 2 ^ 31 := by
  simpa [opvInt32] using And.intro (BitVec.le_toInt (x := opvLow opv)) (BitVec.toInt_lt (x := opvLow opv))

theorem opvInt64_range (opv : Word64) : -2 ^ 63 ≤ opvInt64 opv ∧ opvInt64 opv < 2 ^ 63 := by
  simpa [opvInt64] using And.intro (BitVec.le_toInt (x := opv)) (BitVec.toInt_lt (x := opv))

theorem asr_asr (v : Int) (m n : Nat) : asr (asr v m) n = asr v (m + n) := by
  unfold asr
  rw [Int.ediv_ediv_of_nonneg (by positivity), pow_add]
  push_cast
  rfl

theorem bitOf_asr (v : Int) (m n : Nat) : bitOf (asr v m) n = bitOf v (m + n) := by
  unfold bitOf
  rw [asr_asr]

theorem low_range (v : Int) (n : Nat) : 0 ≤ low v n ∧ low v n < 2 ^ n := by
  have pos : (0 : Int) < ((2 ^ n : Nat) : Int) := by positivity
  have below := Int.emod_lt_of_pos v pos
  push_cast at below
  exact ⟨Int.emod_nonneg v pos.ne', by simpa [low] using below⟩

@[simp] theorem intBits_length (n : Nat) (v : Int) : (intBits n v).length = n := by
  induction n <;> simp_all [intBits]

@[simp] theorem byteBits_length (b : Byte) : (byteBits b).length = 8 := by simp [byteBits]

theorem bitsToNat_append (xs ys : List Bool) : bitsToNat (xs ++ ys) = bitsToNat xs * 2 ^ ys.length + bitsToNat ys := by
  have shift : ∀ (l : List Bool) (v : Nat),
      l.foldl (fun v b => 2 * v + b.toNat) v = v * 2 ^ l.length + bitsToNat l := by
    intro l
    induction l with
    | nil => intro v; simp [bitsToNat]
    | cons x l ih =>
      intro v
      simp only [bitsToNat, List.foldl_cons]
      rw [ih, ih (2 * 0 + x.toNat)]
      simp
      ring
  rw [bitsToNat, List.foldl_append, shift]
  rfl

theorem bitsToNat_cons (x : Bool) (xs : List Bool) : bitsToNat (x :: xs) = x.toNat * 2 ^ xs.length + bitsToNat xs := by
  simpa [bitsToNat] using bitsToNat_append [x] xs

theorem bitsToNat_lt (xs : List Bool) : bitsToNat xs < 2 ^ xs.length := by
  induction xs with
  | nil => simp [bitsToNat]
  | cons x xs ih =>
    rw [bitsToNat_cons, List.length_cons, Nat.pow_succ]
    cases x <;> simp <;> omega

end Sys2Proof.Machine
end

