-- ==== Sys2Proof/Laws/PerInstr.lean ====
section
/-!
SUPPORT. Statements made for every instruction, one lemma per constructor.
-/
namespace Sys2Proof.Laws.EncodingFields

/-- The command word of an instruction that has one carries its opcode and operands in the fields of R101 and R102, and
zero in the reserved field. -/
def Statement (i : Instr) : Prop :=
  i.wellFormed = true →
    fieldOp (encode i) = opcodeOf i ∧ fieldA (encode i) = operandA i ∧ fieldB (encode i) = operandB i ∧
      fieldZ (encode i) = 0

/-- The fields of a word put together from an opcode and two operands. -/
theorem fields_of_word (op a b : Nat) (hop : op < 256) (ha : a < 256) (hb : b < 256) :
    fieldOp (BitVec.ofNat 32 (op * 2 ^ 24 + a * 2 ^ 16 + b * 2 ^ 8)) = op ∧
      fieldA (BitVec.ofNat 32 (op * 2 ^ 24 + a * 2 ^ 16 + b * 2 ^ 8)) = a ∧
      fieldB (BitVec.ofNat 32 (op * 2 ^ 24 + a * 2 ^ 16 + b * 2 ^ 8)) = b ∧
      fieldZ (BitVec.ofNat 32 (op * 2 ^ 24 + a * 2 ^ 16 + b * 2 ^ 8)) = 0 := by
  have value : (BitVec.ofNat 32 (op * 2 ^ 24 + a * 2 ^ 16 + b * 2 ^ 8)).toNat =
      op * 2 ^ 24 + a * 2 ^ 16 + b * 2 ^ 8 := by
    rw [BitVec.toNat_ofNat, Nat.mod_eq_of_lt]
    omega
  simp only [fieldOp, fieldA, fieldB, fieldZ, value]
  omega

/-- Every constructor's lemma. -/
theorem of_operands (i : Instr) (ha : operandA i < 256) (hb : operandB i < 256) : Statement i :=
  fun _ => fields_of_word (opcodeOf i) _ _ (by cases i <;> simp [opcodeOf]) ha hb

theorem rbool : Statement .rbool := of_operands _ (by decide) (by decide)

theorem ru8 (len : Nat) : Statement (.ru8 len) :=
  fun h => of_operands _ (by simpa [Instr.wellFormed, fitsField, operandA] using h) (by simp [operandB]) h

theorem ru16 (len : Nat) : Statement (.ru16 len) :=
  fun h => of_operands _ (by simpa [Instr.wellFormed, fitsField, operandA] using h) (by simp [operandB]) h

theorem ru32 (len : Nat) : Statement (.ru32 len) :=
  fun h => of_operands _ (by simpa [Instr.wellFormed, fitsField, operandA] using h) (by simp [operandB]) h

theorem rs32 (len : Nat) : Statement (.rs32 len) :=
  fun h => of_operands _ (by simpa [Instr.wellFormed, fitsField, operandA] using h) (by simp [operandB]) h

theorem ru64 (len : Nat) : Statement (.ru64 len) :=
  fun h => of_operands _ (by simpa [Instr.wellFormed, fitsField, operandA] using h) (by simp [operandB]) h

theorem rs64 (len : Nat) : Statement (.rs64 len) :=
  fun h => of_operands _ (by simpa [Instr.wellFormed, fitsField, operandA] using h) (by simp [operandB]) h

theorem rf32 : Statement .rf32 := of_operands _ (by decide) (by decide)

theorem rf64 : Statement .rf64 := of_operands _ (by decide) (by decide)

theorem rlpb (scale range : Nat) : Statement (.rlpb scale range) := fun h =>
  have both : scale < 256 ∧ range < 256 := by simpa [Instr.wellFormed, fitsField] using h
  of_operands _ both.1 both.2 h

theorem ralign : Statement .ralign := of_operands _ (by decide) (by decide)

theorem rclose : Statement .rclose := of_operands _ (by decide) (by decide)

theorem rcnt : Statement .rcnt := of_operands _ (by decide) (by decide)

theorem wbool : Statement .wbool := of_operands _ (by decide) (by decide)

theorem wu8 (len : Nat) : Statement (.wu8 len) :=
  fun h => of_operands _ (by simpa [Instr.wellFormed, fitsField, operandA] using h) (by simp [operandB]) h

theorem wu16 (len : Nat) : Statement (.wu16 len) :=
  fun h => of_operands _ (by simpa [Instr.wellFormed, fitsField, operandA] using h) (by simp [operandB]) h

theorem wu32 (len : Nat) : Statement (.wu32 len) :=
  fun h => of_operands _ (by simpa [Instr.wellFormed, fitsField, operandA] using h) (by simp [operandB]) h

theorem ws32 (len : Nat) : Statement (.ws32 len) :=
  fun h => of_operands _ (by simpa [Instr.wellFormed, fitsField, operandA] using h) (by simp [operandB]) h

theorem wu64 (len : Nat) : Statement (.wu64 len) :=
  fun h => of_operands _ (by simpa [Instr.wellFormed, fitsField, operandA] using h) (by simp [operandB]) h

theorem ws64 (len : Nat) : Statement (.ws64 len) :=
  fun h => of_operands _ (by simpa [Instr.wellFormed, fitsField, operandA] using h) (by simp [operandB]) h

theorem wf32 : Statement .wf32 := of_operands _ (by decide) (by decide)

theorem wf64 : Statement .wf64 := of_operands _ (by decide) (by decide)

theorem wlpb (scale range : Nat) : Statement (.wlpb scale range) := fun h =>
  have both : scale < 256 ∧ range < 256 := by simpa [Instr.wellFormed, fitsField] using h
  of_operands _ both.1 both.2 h

theorem walign : Statement .walign := of_operands _ (by decide) (by decide)

theorem wclose : Statement .wclose := of_operands _ (by decide) (by decide)

theorem wcnt : Statement .wcnt := of_operands _ (by decide) (by decide)

end Sys2Proof.Laws.EncodingFields
end

