-- ==== Sys2Proof/Laws/Reader.lean ====
section
/-!
SUPPORT. What the reader's shared operations do: the refill, the bit, the close, and how consumptions of bits compose.
-/
namespace Sys2Proof.Machine

/-- R140: everything a refill can do. -/
theorem rRefill_eq (r : Reader) :
    rRefill r =
      (let a := r.src.answers.headD .endOfData
       let k := { r.src with answers := r.src.answers.tail, events := r.src.events ++ [.pull a] }
       match a with
       | .byte b => .done () { r with cnt := r.cnt + 1, win := flagsOf b, cur := 0, src := k }
       | .endOfData => .raise .endOfStream { r with src := k }
       | .fail code => .raise (.channelIOFailure code) { r with src := k }
       | .noAnswer => .hang { r with src := k }) := by
  unfold rRefill
  rw [srcPull_eq]
  cases r.src.answers.headD .endOfData <;> rfl

/-- A refill that returns leaves the cursor at the first flag. -/
theorem rRefill_done {r r' : Reader} {u : Unit} (h : rRefill r = .done u r') : r'.cur = 0 := by
  rw [rRefill_eq] at h
  simp only at h
  split at h <;> cases h
  rfl

theorem rEnsure_of_lt (r : Reader) (h : r.cur.val < 8) : rEnsure r = .done () r := by
  simp [rEnsure, Nat.ne_of_lt h]

theorem rEnsure_of_eq (r : Reader) (h : r.cur.val = 8) : rEnsure r = rRefill r := by simp [rEnsure, h]

/-- A bit that is buffered. -/
theorem rBit_of_lt (r : Reader) (h : r.cur.val < 8) :
    rBit r = .done (flagAt r.win r.cur) { r with cur := nextCur r.cur } := by
  simp [rBit, rEnsure_of_lt r h]

/-- A bit for which a byte is pulled. -/
theorem rBit_of_byte (r : Reader) (b : Byte) (rest : List PullAnswer) (h : r.cur.val = 8)
    (ready : r.src.answers = .byte b :: rest) :
    rBit r = .done (flagAt (flagsOf b) 0)
      { r with cur := nextCur 0, cnt := r.cnt + 1, win := flagsOf b,
               src := { r.src with answers := rest, events := r.src.events ++ [.pull (.byte b)] } } := by
  simp [rBit, rEnsure_of_eq r h, rRefill_eq, ready]

/-- The serial read of `m + n` bits is the read of `m` bits and then of `n` bits on top of them. -/
theorem rGetBitsFrom_add (m n v : Nat) (r : Reader) :
    rGetBitsFrom (m + n) v r = (rGetBitsFrom m v r).bind fun high r' => rGetBitsFrom n high r' := by
  induction m generalizing v r with
  | zero => simp [rGetBitsFrom]
  | succ m ih =>
    rw [Nat.succ_add]
    simp [rGetBitsFrom, ih]

/-- R188: everything the close of the reader's channel can do. -/
theorem rCloseChannel_eq (r : Reader) :
    rCloseChannel r =
      (let a := r.src.closeAnswers.headD .ok
       let k := { r.src with closeAnswers := r.src.closeAnswers.tail, events := r.src.events ++ [.close a] }
       match a with
       | .ok => .done () { r with closed := true, src := k }
       | .fail code => .raise (.channelIOFailure code) { r with src := k }
       | .noAnswer => .hang { r with src := k }) := by
  unfold rCloseChannel
  rw [srcClose_eq]
  cases r.src.closeAnswers.headD .ok <;> rfl

/-- The number of readable bits: the buffered ones and eight for each byte the source has ready. -/
theorem readableBits_length (r : Reader) :
    (readableBits r).length = (8 - r.cur.val) + 8 * (readyBytes r.src.answers).length := by
  have bytes : ∀ l : List Byte, (l.flatMap byteBits).length = 8 * l.length := by
    intro l
    induction l with
    | nil => rfl
    | cons b l ih =>
      simp [List.flatMap_cons, ih]
      ring
  simp [readableBits, bytes]

theorem ConsumesBits.zero (r : Reader) : ConsumesBits 0 r r := by
  have none : pullsFor 0 r = 0 := by
    unfold pullsFor
    omega
  constructor <;> simp [none]

theorem ConsumesBits.trans {m n : Nat} {r r₁ r₂ : Reader} (h : ConsumesBits m r r₁) (g : ConsumesBits n r₁ r₂) :
    ConsumesBits (m + n) r r₂ := by
  have p := h.position
  have p' := g.position
  have c := h.count
  have c' := g.count
  have pulls : pullsFor (m + n) r = pullsFor m r + pullsFor n r₁ := by
    unfold pullsFor at *
    omega
  constructor
  · rw [g.bits, h.bits, List.drop_drop]
  · omega
  · omega
  · rw [g.answers, h.answers, pulls, List.drop_drop]
  · rw [g.events, h.events, h.answers, pulls, List.take_add, List.map_append, List.append_assoc]
  · rw [g.closeAnswers, h.closeAnswers]
  · rw [g.past, h.past]
  · rw [g.err, h.err]
  · rw [g.closed, h.closed]

end Sys2Proof.Machine
end

