-- ==== Sys2Proof/Laws/Writer.lean ====
section
/-!
SUPPORT. What the writer's shared operations do: the flush, the bit, the fast path, the close, and how productions of bits
compose.
-/
namespace Sys2Proof.Machine

/-- R210: everything a flush can do. -/
theorem wFlush_eq (w : Writer) :
    wFlush w =
      (let a := w.snk.pushAnswers.headD .ok
       let k := { w.snk with pushAnswers := w.snk.pushAnswers.tail, events := w.snk.events ++ [.push (byteOf w.win) a] }
       match a with
       | .ok => .done () { w with cnt := w.cnt + 1, cur := 0, snk := k }
       | .fail code => .raise (.channelIOFailure code) { w with snk := k }
       | .noAnswer => .hang { w with snk := k }) := by
  unfold wFlush
  rw [sinkPush_eq]
  cases w.snk.pushAnswers.headD .ok <;> rfl

theorem wFlushIfFull_of_lt (w : Writer) (h : w.cur.val < 8) : wFlushIfFull w = .done () w := by
  simp [wFlushIfFull, Nat.ne_of_lt h]

theorem wFlushIfFull_of_eq (w : Writer) (h : w.cur.val = 8) : wFlushIfFull w = wFlush w := by simp [wFlushIfFull, h]

/-- A flush of a full window that returns leaves a window that is not full. -/
theorem wFlushIfFull_done {w w' : Writer} {u : Unit} (h : wFlushIfFull w = .done u w') : w'.cur.val < 8 := by
  rcases Nat.lt_or_ge w.cur.val 8 with lt | ge
  · rw [wFlushIfFull_of_lt w lt] at h
    cases h
    exact lt
  · rw [wFlushIfFull_of_eq w (by omega), wFlush_eq] at h
    simp only at h
    split at h <;> cases h
    exact Nat.zero_lt_succ 7

/-- R210: a bit goes into the window, and a full window is flushed. -/
theorem wBit_of_lt (b : Bool) (w : Writer) (h : w.cur.val < 8) : wBit b w = wFlushIfFull (wPutFlag b w) := by
  simp [wBit, wFlushIfFull_of_lt w h]

theorem pendingBits_wPutFlag (b : Bool) (w : Writer) (h : w.cur.val < 8) :
    pendingBits (wPutFlag b w) = pendingBits w ++ [b] := take_setFlagAt w.win w.cur b h

/-- R212: everything the fast path can do. -/
theorem wFastPath_eq (v : Int) (w : Writer) :
    wFastPath v w =
      (let a := w.snk.pushAnswers.headD .ok
       let k := { w.snk with pushAnswers := w.snk.pushAnswers.tail,
                             events := w.snk.events ++ [.push (BitVec.ofInt 8 v) a] }
       match a with
       | .ok => .done () { w with cnt := w.cnt + 1, snk := k }
       | .fail code => .raise (.channelIOFailure code) { w with snk := k }
       | .noAnswer => .hang { w with snk := k }) := by
  unfold wFastPath
  rw [sinkPush_eq]
  cases w.snk.pushAnswers.headD .ok <;> rfl

/-- R258: everything the close of the writer's channel can do. -/
theorem wCloseChannel_eq (w : Writer) :
    wCloseChannel w =
      (let a := w.snk.closeAnswers.headD .ok
       let k := { w.snk with closeAnswers := w.snk.closeAnswers.tail, events := w.snk.events ++ [.close a] }
       match a with
       | .ok => .done () { w with closed := true, snk := k }
       | .fail code => .raise (.channelIOFailure code) { w with snk := k }
       | .noAnswer => .hang { w with snk := k }) := by
  unfold wCloseChannel
  rw [sinkClose_eq]
  cases w.snk.closeAnswers.headD .ok <;> rfl

@[simp] theorem pushedBytes_append (xs ys : List SinkEvent) :
    pushedBytes (xs ++ ys) = pushedBytes xs ++ pushedBytes ys := by simp [pushedBytes]

@[simp] theorem pushedBytes_okPushes (bytes : List Byte) : pushedBytes (okPushes bytes) = bytes := by
  induction bytes <;> simp_all [pushedBytes, okPushes]

/-- Fewer pushes are accepted as well. -/
theorem acceptsPushes_of_le {m n : Nat} {w : Writer} (h : acceptsPushes n w) (le : m ≤ n) : acceptsPushes m w :=
  fun a ha => h a ((List.take_prefix_take_left le).subset ha)

theorem ProducesBits.trans {xs ys : List Bool} {w w₁ w₂ : Writer} (h : ProducesBits xs w w₁)
    (g : ProducesBits ys w₁ w₂) : ProducesBits (xs ++ ys) w w₂ := by
  have p := h.position
  have p' := g.position
  have c := h.count
  have c' := g.count
  have pushes : pushesFor (xs ++ ys).length w = pushesFor xs.length w + pushesFor ys.length w₁ := by
    simp only [pushesFor, List.length_append] at *
    omega
  constructor
  · rw [g.stream, h.stream, List.append_assoc]
  · rw [List.length_append]
    omega
  · omega
  · rw [g.answers, h.answers, pushes, List.drop_drop]
  · obtain ⟨bs, len, e⟩ := h.events
    obtain ⟨bs', len', e'⟩ := g.events
    exact ⟨bs ++ bs', by rw [pushes, List.length_append, len, len'], by rw [e', e]; simp [okPushes]⟩
  · rw [g.closeAnswers, h.closeAnswers]
  · rw [g.past, h.past]
  · rw [g.ebw, h.ebw]
  · rw [g.err, h.err]
  · rw [g.closed, h.closed]

end Sys2Proof.Machine
end

