-- ==== Sys2Proof/Tests/Slice0.lean ====
section
/-!
SUPPORT. Tests. Expected results are those of spec/95_test_vectors.md, whose section each test names, or are computed by hand
from the rule named; and the witnesses that the hypotheses of the obligations can be met.
-/
namespace Sys2Proof.Tests

open Sys2Proof.Machine

/-! ### Helpers -/

/-- A machine after reset whose BR has a source that gives `bytes` and then end-of-data. -/
def source (bytes : List Byte) : State :=
  { State.reset with
    br := Reader.fresh { answers := bytes.map PullAnswer.byte, closeAnswers := [], events := [], past := [] } }

/-- The machine `s` with the operand `opv` sampled. -/
def operand (opv : Word64) (s : State) : State := { s with opv := opv }

/-- The machine `s` with BR's cursor at `cur`. -/
def readerAt (cur : Fin 9) (s : State) : State := { s with br := { s.br with cur := cur } }

/-- A machine after reset whose BW holds the pending flag 1. -/
def onePending : State :=
  { State.reset with
    bw := { State.reset.bw with win := #v[true, false, false, false, false, false, false, false], cur := 1 } }

/-- A machine after reset whose BW has the first bytes of its element buffer written. -/
def elements (bytes : List (Nat × Byte)) : State := { State.reset with bw := { State.reset.bw with ebw := bytes } }

/-- A machine after reset whose sink gives these answers. -/
def sink (pushAnswers closeAnswers : List Ack) : State :=
  { State.reset with
    bw := Writer.fresh { pushAnswers := pushAnswers, closeAnswers := closeAnswers, events := [], past := [] } }

/-- What a reader command leaves: status, RES, `R.CUR`, `R.CNT`. -/
def readerResult (o : Host.Outcome State Fault Refusal) : Option (Status × Word64 × Nat × Nat) :=
  match o with
  | .next t => t.response.map fun p => (p.status, p.res, t.br.cur.val, t.br.cnt)
  | .fault _ | .refused _ => none

/-- What a writer command leaves: status, RES, the bytes at the sink, the pending flags. -/
def writerResult (o : Host.Outcome State Fault Refusal) : Option (Status × Word64 × List Byte × List Bool) :=
  match o with
  | .next t => t.response.map fun p => (p.status, p.res, pushedBytes t.bw.snk.events, pendingBits t.bw)
  | .fault _ | .refused _ => none

/-- The machine after a step or command, the machine after reset where there is none. -/
def after (o : Host.Outcome State Fault Refusal) : State :=
  match o with
  | .next t => t
  | .fault _ | .refused _ => State.reset

/-- The fault a step stops with. -/
def faultOf (o : Host.Outcome State Fault Refusal) : Option Fault :=
  match o with
  | .fault f => some f
  | .next _ | .refused _ => none

/-! ### Well-formedness: one ill-formed term for each check -/

theorem test_wf_length_of_a_read : (Instr.ru8 256).wellFormed = false := by decide
theorem test_wf_length_of_a_write : (Instr.ws64 256).wellFormed = false := by decide
theorem test_wf_scale : (Instr.rlpb 256 8).wellFormed = false := by decide
theorem test_wf_range : (Instr.wlpb 4 256).wellFormed = false := by decide

/-- A length the operation does not admit is a legal encoding (R105). -/
theorem test_wf_invalid_length_has_a_word : (Instr.ru8 0).wellFormed = true ∧ (Instr.rs32 255).wellFormed = true := by
  decide

/-! ### Decoding: one word for each constructor, written out as OP, A, B, Z from R101, R102, R104 -/

theorem test_decode_rbool : decode 0b00000001000000000000000000000000 = .ok .rbool := by decide
theorem test_decode_ru8 : decode 0b00000010000000110000000000000000 = .ok (.ru8 3) := by decide
theorem test_decode_ru16 : decode 0b00000011000011000000000000000000 = .ok (.ru16 12) := by decide
theorem test_decode_ru32 : decode 0b00000100000100010000000000000000 = .ok (.ru32 17) := by decide
theorem test_decode_rs32 : decode 0b00000101000001110000000000000000 = .ok (.rs32 7) := by decide
theorem test_decode_ru64 : decode 0b00000110001000010000000000000000 = .ok (.ru64 33) := by decide
theorem test_decode_rs64 : decode 0b00000111010000000000000000000000 = .ok (.rs64 64) := by decide
theorem test_decode_rf32 : decode 0b00001000000000000000000000000000 = .ok .rf32 := by decide
theorem test_decode_rf64 : decode 0b00001001000000000000000000000000 = .ok .rf64 := by decide
theorem test_decode_rlpb : decode 0b00001010000001000000011100000000 = .ok (.rlpb 4 7) := by decide
theorem test_decode_ralign : decode 0b00001011000000000000000000000000 = .ok .ralign := by decide
theorem test_decode_rclose : decode 0b00001100000000000000000000000000 = .ok .rclose := by decide
theorem test_decode_rcnt : decode 0b00001101000000000000000000000000 = .ok .rcnt := by decide
theorem test_decode_wbool : decode 0b10000001000000000000000000000000 = .ok .wbool := by decide
theorem test_decode_wu8 : decode 0b10000010000000110000000000000000 = .ok (.wu8 3) := by decide
theorem test_decode_wu16 : decode 0b10000011000100000000000000000000 = .ok (.wu16 16) := by decide
theorem test_decode_wu32 : decode 0b10000100000001000000000000000000 = .ok (.wu32 4) := by decide
theorem test_decode_ws32 : decode 0b10000101000001110000000000000000 = .ok (.ws32 7) := by decide
theorem test_decode_wu64 : decode 0b10000110001111110000000000000000 = .ok (.wu64 63) := by decide
theorem test_decode_ws64 : decode 0b10000111001011110000000000000000 = .ok (.ws64 47) := by decide
theorem test_decode_wf32 : decode 0b10001000000000000000000000000000 = .ok .wf32 := by decide
theorem test_decode_wf64 : decode 0b10001001000000000000000000000000 = .ok .wf64 := by decide
theorem test_decode_wlpb : decode 0b10001010000001000000011100000000 = .ok (.wlpb 4 7) := by decide
theorem test_decode_walign : decode 0b10001011000000000000000000000000 = .ok .walign := by decide
theorem test_decode_wclose : decode 0b10001100000000000000000000000000 = .ok .wclose := by decide
theorem test_decode_wcnt : decode 0b10001101000000000000000000000000 = .ok .wcnt := by decide

/-- 95 2.1: the illegal words. -/
theorem test_illegal_words :
    decode 0x00000000 = .error .unassignedOpcode ∧ decode 0x0E000000 = .error .unassignedOpcode ∧
      decode 0x80000000 = .error .unassignedOpcode ∧ decode 0xFFFFFFFF = .error .unassignedOpcode ∧
      decode 0x01000001 = .error .reservedNotZero ∧ decode 0x01010000 = .error .unusedANotZero ∧
      decode 0x04110100 = .error .unusedBNotZero ∧ decode 0x0A040701 = .error .reservedNotZero := by decide

/-- The rule `Legal` accepts and refuses the words of 95 2.1. -/
theorem test_legal_words :
    legalWord 0x02000000 = true ∧ legalWord 0x863F0000 = true ∧ legalWord 0x0A040700 = true ∧
      legalWord 0x0D000100 = false ∧ legalWord 0x80000000 = false := by decide

/-- The encoder gives the words of 95 2.1. -/
theorem test_encode_words :
    encode (.ru64 33) = 0x06210000 ∧ encode (.wlpb 4 7) = 0x8A040700 ∧ encode .walign = 0x8B000000 := by decide

theorem test_decode_table_word : decodeTableWord 32 0x06210000 = some (.ru64 33) := by decide

/-- The table's word runs as the first command after reset: WU8 3 of the operand 0. -/
theorem test_fetch_word_runs :
    writerResult (step (State.reset.withFetchWord 32 0x82030000)) = some (.ok, 0, [], [false, false, false]) := by decide

/-! ### Reader commands -/

/-- 95 2.2. -/
theorem test_rbool : readerResult (exec .rbool (source [0x80])) = some (.ok, 1, 1, 1) := by decide

/-- 95 2.2: a straddle, after RBOOL. -/
theorem test_ru8_straddles :
    readerResult (exec (.ru8 8) (after (exec .rbool (source [0xD3, 0x80])))) = some (.ok, 0xA7, 1, 2) := by decide

/-- 95 2.2: the length 0 and the length 9 are invalid. -/
theorem test_ru8_invalid_length :
    readerResult (exec (.ru8 0) (source [0x80])) = some (.error .invalidArgument, 0, 8, 0) ∧
      readerResult (exec (.ru8 9) (source [0x80])) = some (.error .invalidArgument, 0, 8, 0) := by decide

/-- 95 2.2. -/
theorem test_ru16 : readerResult (exec (.ru16 12) (source [0xAB, 0xC0])) = some (.ok, 0xABC, 4, 2) := by decide

/-- 95 2.2: end of stream inside the value. -/
theorem test_ru16_end_of_stream :
    readerResult (exec (.ru16 12) (source [0xAB])) = some (.error .endOfStream, 0, 8, 1) := by decide

/-- 95 2.2. -/
theorem test_ru32 : readerResult (exec (.ru32 17) (source [0xD5, 0xE6, 0x80])) = some (.ok, 0x1ABCD, 1, 3) := by decide

/-- 95 2.2: the length 32 is invalid for RU32. -/
theorem test_ru32_invalid_length :
    readerResult (exec (.ru32 32) (source [0x80])) = some (.error .invalidArgument, 0, 8, 0) := by decide

/-- 95 2.2. -/
theorem test_rs32 : readerResult (exec (.rs32 5) (source [0xE8])) = some (.ok, 0xFFFFFFFFFFFFFFFD, 5, 1) := by decide

/-- 95 2.2: the full width. -/
theorem test_rs32_full_width :
    readerResult (exec (.rs32 32) (source [0x80, 0, 0, 0])) = some (.ok, 0xFFFFFFFF80000000, 8, 4) := by decide

/-- 95 2.2. -/
theorem test_ru64 :
    readerResult (exec (.ru64 62) (source [0xAA, 0xAA, 0xAA, 0xAA, 0xAA, 0xAA, 0xAA, 0xA8])) =
      some (.ok, 0x2AAAAAAAAAAAAAAA, 6, 8) := by decide

/-- 95 2.2: the mixed-width law. -/
theorem test_ru64_unaligned :
    readerResult (exec (.ru64 32) (after (exec (.ru8 3) (source [0x12, 0x34, 0x56, 0x78, 0x9A])))) =
      some (.ok, 0x91A2B3C4, 3, 5) := by decide

/-- 95 2.2. -/
theorem test_rs64 :
    readerResult (exec (.rs64 33) (source [0x80, 0, 0, 0, 0])) = some (.ok, 0xFFFFFFFF00000000, 1, 5) := by decide

/-- 95 2.2: the full width. -/
theorem test_rs64_full_width :
    readerResult (exec (.rs64 64) (source [0xFF, 0xFF, 0xFF, 0xFF, 0xFF, 0xFF, 0xFF, 0xFE])) =
      some (.ok, 0xFFFFFFFFFFFFFFFE, 8, 8) := by decide

/-- 95 2.3: a NaN with payload comes back unchanged. -/
theorem test_rf32 :
    readerResult (exec .rf32 (source [0x7F, 0xC0, 0, 1])) = some (.ok, 0x7FC00001, 8, 4) := by decide

/-- 95 2.3. -/
theorem test_rf64 :
    readerResult (exec .rf64 (source [0x3F, 0xF0, 0, 0, 0, 0, 0, 0])) = some (.ok, 0x3FF0000000000000, 8, 8) := by
  decide

/-- 95 2.3. -/
theorem test_rlpb :
    readerResult (exec (.rlpb 4 7) (source [0x39, 0x1A, 0x50, 0x80])) = some (.ok, 3, 1, 4) ∧
      (after (exec (.rlpb 4 7) (source [0x39, 0x1A, 0x50, 0x80]))).br.ebr = [(0, 0x48), (1, 0x69), (2, 0x21)] := by
  decide

/-- 95 2.3: the invalid scales and ranges. -/
theorem test_rlpb_invalid :
    readerResult (exec (.rlpb 17 8) (source [0x80])) = some (.error .invalidArgument, 0, 8, 0) ∧
      readerResult (exec (.rlpb 4 9) (source [0x80])) = some (.error .invalidArgument, 0, 8, 0) := by decide

/-- 95 2.3: RBOOL and then RALIGN 4. -/
theorem test_ralign :
    readerResult (exec .ralign (operand 4 (after (exec .rbool (source [0x80, 0, 0, 0]))))) = some (.ok, 31, 8, 4) := by
  decide

/-- 95 2.3: a boundary that is negative as an int is invalid. -/
theorem test_ralign_invalid :
    readerResult (exec .ralign (operand 0xFFFFFFFF (source [0x80]))) = some (.error .invalidArgument, 0, 8, 0) := by
  decide

/-- 95 2.3: RBOOL and then RCLOSE. -/
theorem test_rclose :
    readerResult (exec .rclose (after (exec .rbool (source [0x80])))) = some (.ok, 0, 8, 1) ∧
      (after (exec .rclose (after (exec .rbool (source [0x80]))))).br.closed = true := by decide

/-- 95 2.6: RCNT of a poisoned unit. -/
theorem test_rcnt :
    readerResult (exec .rcnt (after (exec (.ru16 12) (source [0xAB])))) = some (.ok, 1, 8, 1) := by decide

/-! ### Writer commands -/

/-- 95 2.4. -/
theorem test_wbool : writerResult (exec .wbool (operand 1 State.reset)) = some (.ok, 0, [], [true]) := by decide

/-- 95 2.4: the operand 2 is invalid. -/
theorem test_wbool_invalid :
    writerResult (exec .wbool (operand 2 State.reset)) = some (.error .invalidArgument, 0, [], []) := by decide

/-- 95 2.4: a straddle, after WBOOL 1. -/
theorem test_wu8_straddles :
    writerResult (exec (.wu8 8) (operand 0xA7 onePending)) = some (.ok, 0, [0xD3], [true]) := by decide

/-- 95 2.4: the value 8 does not fit 3 bits. -/
theorem test_wu8_invalid_value :
    writerResult (exec (.wu8 3) (operand 8 State.reset)) = some (.error .invalidArgument, 0, [], []) := by decide

/-- 95 2.4. -/
theorem test_wu16 :
    writerResult (exec (.wu16 12) (operand 0xABC State.reset)) = some (.ok, 0, [0xAB], [true, true, false, false]) := by
  decide

/-- 95 2.4: the sink answers `Fail(0x2A)` to its first push. -/
theorem test_wu16_push_fails :
    (after (exec (.wu16 12) (operand 0xABC (sink [.fail 0x2A] [])))).response =
        some { status := .error .channelIOFailure, res := 0x2A } ∧
      (after (exec (.wu16 12) (operand 0xABC (sink [.fail 0x2A] [])))).bw.cnt = 0 := by decide

/-- 95 2.4. -/
theorem test_wu32 :
    writerResult (exec (.wu32 17) (operand 0x1ABCD State.reset)) = some (.ok, 0, [0xD5, 0xE6], [true]) := by decide

/-- 95 2.4: the value 16 does not fit 4 bits. -/
theorem test_wu32_invalid_value :
    writerResult (exec (.wu32 4) (operand 16 State.reset)) = some (.error .invalidArgument, 0, [], []) := by decide

/-- 95 2.4. -/
theorem test_ws32 :
    writerResult (exec (.ws32 5) (operand 0xFFFFFFFFFFFFFFFD State.reset)) =
      some (.ok, 0, [], [true, true, true, false, true]) := by decide

/-- 95 2.4: -128 fits 8 bits, -129 does not. -/
theorem test_ws32_edges :
    writerResult (exec (.ws32 8) (operand 0xFFFFFF80 State.reset)) = some (.ok, 0, [0x80], []) ∧
      writerResult (exec (.ws32 8) (operand 0xFFFFFF7F State.reset)) = some (.error .invalidArgument, 0, [], []) := by
  decide

/-- 95 2.4. -/
theorem test_wu64 :
    writerResult (exec (.wu64 40) (operand 0x123456789A State.reset)) =
      some (.ok, 0, [0x12, 0x34, 0x56, 0x78, 0x9A], []) := by decide

/-- 95 2.4: -1 as an operand of WU64 is invalid. -/
theorem test_wu64_invalid_value :
    writerResult (exec (.wu64 63) (operand 0xFFFFFFFFFFFFFFFF State.reset)) =
      some (.error .invalidArgument, 0, [], []) := by decide

/-- 95 2.4. -/
theorem test_ws64 :
    writerResult (exec (.ws64 33) (operand 0xFFFFFFFF00000000 State.reset)) =
      some (.ok, 0, [0x80, 0, 0, 0], [false]) := by decide

/-- 95 2.4: the full width. -/
theorem test_ws64_full_width :
    writerResult (exec (.ws64 64) (operand 0xFFFFFFFFFFFFFFFE State.reset)) =
      some (.ok, 0, [0xFF, 0xFF, 0xFF, 0xFF, 0xFF, 0xFF, 0xFF, 0xFE], []) := by decide

/-- 95 2.5: after WBOOL 1. -/
theorem test_wf32 :
    writerResult (exec .wf32 (operand 0x3F800000 onePending)) = some (.ok, 0, [0x9F, 0xC0, 0, 0], [false]) := by decide

/-- 95 2.5. -/
theorem test_wf64 :
    writerResult (exec .wf64 (operand 0x8000000000000000 State.reset)) =
      some (.ok, 0, [0x80, 0, 0, 0, 0, 0, 0, 0], []) := by decide

/-- 95 2.5: elements that are not masked to the range. -/
theorem test_wlpb :
    writerResult (exec (.wlpb 3 4) (operand 3 (elements [(0, 0xAB), (1, 0xCD), (2, 0xEF)]))) =
      some (.ok, 0, [0x77], [true, false, true, true, true, true, true]) := by decide

/-- 95 2.5: the count 4 does not fit a 2-bit prefix. -/
theorem test_wlpb_invalid_count :
    writerResult (exec (.wlpb 2 8) (operand 4 State.reset)) = some (.error .invalidArgument, 0, [], []) := by decide

/-- 95 2.5: after WBOOL 1. -/
theorem test_walign :
    writerResult (exec .walign (operand 4 onePending)) = some (.ok, 31, [0x80, 0, 0, 0], []) := by decide

/-- 95 2.5: a boundary of 0 is invalid. -/
theorem test_walign_invalid :
    writerResult (exec .walign (operand 0 State.reset)) = some (.error .invalidArgument, 0, [], []) := by decide

/-- 95 2.5: after WBOOL 1. -/
theorem test_wclose :
    writerResult (exec .wclose onePending) = some (.ok, 0, [0x80], []) ∧
      (after (exec .wclose onePending)).bw.closed = true := by decide

/-- 95 2.6: the close answers `Fail(9)`. -/
theorem test_wclose_fails :
    (after (exec .wclose (sink [] [.fail 9]))).response = some { status := .error .channelIOFailure, res := 9 } ∧
      (after (exec .wclose (sink [] [.fail 9]))).bw.closed = false := by decide

/-- 95 2.5: one byte pushed, then counted. -/
theorem test_wcnt :
    writerResult (exec .wcnt (after (exec (.wu16 12) (operand 0xABC State.reset)))) =
      some (.ok, 1, [0xAB], [true, true, false, false]) := by decide

/-! ### Errors and the host's side -/

/-- 95 2.6: the all-zero word on a fresh BR; BW stays. -/
theorem test_illegal_word_poisons_br :
    let t := after (step { State.reset with host := [.command 0 0] })
    t.response = some { status := .error .illegalCommand, res := 0 } ∧ t.br.err = some .illegalCommand ∧
      t.bw = State.reset.bw := by decide

/-- 95 2.6: a poisoned unit refuses an illegal word. -/
theorem test_poisoned_unit_refuses_illegal_word :
    (after (step { State.reset with
      br := { State.reset.br with err := some .endOfStream }, host := [.command 0x0D000100 0] })).response =
      some { status := .refused, res := 0 } := by decide

/-- 95 2.6: the source answers `Fail(7)` to the first pull. -/
theorem test_failing_pull :
    let t := after (exec .rbool { State.reset with
      br := Reader.fresh { answers := [.fail 7], closeAnswers := [], events := [], past := [] } })
    t.response = some { status := .error .channelIOFailure, res := 7 } ∧ t.br.err = some .channelIOFailure ∧
      t.br.cnt = 0 ∧ t.br.cur.val = 8 := by decide

/-- R334: a pull that is never answered leaves the command unfinished, and a reset of the unit ends it. -/
theorem test_unanswered_pull_and_reset :
    let t := after (exec .rbool { State.reset with
      br := Reader.fresh { answers := [.noAnswer], closeAnswers := [], events := [], past := [] }
      host := [.control .resetReader] })
    t.response = none ∧ t.hung = some .br ∧ (after (step t)).hung = none := by decide

/-- R68, R336: the host writes EBW and reads it back; the index 65536 is no entry. -/
theorem test_host_buffer_access :
    (after (step (after (step { State.reset with
        host := [.control (.writeEbw 65535 0x2A), .control (.readEbw 65535)] })))).bufferByte = some 0x2A ∧
      faultOf (step { State.reset with host := [.control (.writeEbw 65536 0)] }) = some .elementIndexOutOfRange := by
  decide

/-! ### Witnesses: states and operands that meet the hypotheses of the obligations -/

/-- Eight bytes, so that every legal length has its bits. -/
def eightBytes : List Byte := [0xB5, 0x40, 0xA7, 0xD3, 0x80, 0xAB, 0xC0, 0xFE]

/-- A machine after reset whose BW needs one more bit for a byte and whose sink fails the next push. -/
def lastBitFails : State :=
  { sink [.fail 0x2A] [] with bw := { (sink [.fail 0x2A] []).bw with cur := 7 } }

/-- A machine with an unfinished RBOOL and a command waiting. -/
def waiting : State := { State.reset with hung := some .br, host := [.command 0x01000000 0] }

/-- DecodeOfEncodeIsIdentity: the greatest operands. -/
theorem witness_DecodeOfEncodeIsIdentity : (Instr.rlpb 255 255).wellFormed = true := by decide

theorem witness_EncodeOfDecodeIsIdentity : decode 0x8AFFFF00 = .ok (.wlpb 255 255) := by decide

/-- DecoderAcceptsExactlyTheLegalWords: a word that matches a row. -/
theorem witness_DecoderAcceptsExactlyTheLegalWords :
    (0x82000000#32, 0xFF00FFFF#32) ∈ opcodeRows ∧ (0x82FF0000#32 &&& 0xFF00FFFF#32) = 0x82000000#32 := by decide

/-- IllegalWordsAreRejectedByName: each range of `OP` at its ends, and a word that decodes. -/
theorem witness_IllegalWordsAreRejectedByName :
    fieldOp 0x00000000 = 0 ∧ fieldOp 0x0E000000 = 0x0E ∧ fieldOp 0x80FFFFFF = 0x80 ∧ fieldOp 0x8E000000 = 0x8E ∧
      fieldOp 0xFFFFFFFF = 0xFF ∧ decode 0x0D000000 = .ok .rcnt := by decide

/-- StepRunsTheDecodedCommand: a legal word and an illegal one. -/
theorem witness_StepRunsTheDecodedCommand :
    let s (cmd : Word32) : State := { State.reset with host := [.command cmd 1] }
    (s 0x81000000).host = .command 0x81000000 1 :: [] ∧ (s 0x81000000).hung = none ∧ decode 0x81000000 = .ok .wbool ∧
      decode 0x00000000 = .error .unassignedOpcode := by decide

/-- IllegalWordsPoisonTheSelectedUnit: the last `OP` of BR's half and the first of BW's. -/
theorem witness_IllegalWordsPoisonTheSelectedUnit :
    (decode 0x7F000000 = .error .unassignedOpcode ∧ fieldOp 0x7F000000 < 128 ∧ State.reset.br.err = none ∧
        State.reset.br.closed = false) ∧
      (decode 0x80000000 = .error .unassignedOpcode ∧ 128 ≤ fieldOp 0x80000000 ∧ State.reset.bw.err = none ∧
        State.reset.bw.closed = false) := by decide

/-- UnfinishedCommandHoldsTheBlock: both clauses. -/
theorem witness_UnfinishedCommandHoldsTheBlock :
    (waiting.hung.isSome = true ∧ ∀ a rest, waiting.host = a :: rest → a.isReset = false) ∧ State.reset.host = [] := by
  refine ⟨⟨by decide, fun a rest h => ?_⟩, by decide⟩
  cases h
  rfl

theorem witness_ReaderResetRestoresTheUnit :
    let s : State := { waiting with host := [.control .resetReader] }
    s.host = .control .resetReader :: [] ∧ s.hung = some .br := by decide

theorem witness_WriterResetRestoresTheUnit :
    let s : State := { onePending with host := [.control .resetWriter] }
    s.host = .control .resetWriter :: [] ∧ s.bw.cur.val = 1 := by decide

theorem witness_ProvidingAChannelStartsAFreshLife :
    let s : State := { waiting with host := [.control (.bindReader [.byte 1] [])] }
    let u : State := { onePending with host := [.control (.bindWriter [.ok] [])] }
    s.host = .control (.bindReader [.byte 1] []) :: [] ∧ u.host = .control (.bindWriter [.ok] []) :: [] := by decide

/-- BooleanRead, UnsignedReads, SignedReads, FloatReads: one state with 64 readable bits meets every clause at every legal
length, the greatest of each clause among them. -/
theorem witness_ReadsReturnTheNextBits :
    (source eightBytes).br.refuses = false ∧ 64 ≤ (readableBits (source eightBytes).br).length := by decide

/-- PrefixedReadDeliversTheElements: the greatest scale with the count 0, and the least with one element. -/
theorem witness_PrefixedReadDeliversTheElements :
    ((source [0, 0]).br.refuses = false ∧ 16 ≤ (readableBits (source [0, 0]).br).length ∧
        16 + bitsToNat ((readableBits (source [0, 0]).br).take 16) * 8 ≤ (readableBits (source [0, 0]).br).length) ∧
      ((source [0xC0]).br.refuses = false ∧ 1 ≤ (readableBits (source [0xC0]).br).length ∧
        1 + bitsToNat ((readableBits (source [0xC0]).br).take 1) * 7 ≤ (readableBits (source [0xC0]).br).length) := by
  decide

/-- PrefixedReadStopsAtTheSourceEnd: in the prefix, and in an element. -/
theorem witness_PrefixedReadStopsAtTheSourceEnd :
    ((source []).br.refuses = false ∧ (readableBits (source []).br).length < 1) ∧
      ((source [0xFF]).br.refuses = false ∧
        (readableBits (source [0xFF]).br).length < 4 + bitsToNat ((readableBits (source [0xFF]).br).take 4) * 8) := by
  decide

/-- ReaderAlignDiscardsToTheBoundary, AlignIsIdempotent: a byte in use, boundary 2. -/
theorem witness_ReaderAlignDiscardsToTheBoundary :
    let s := operand 2 (after (exec .rbool (source [0x80, 0])))
    s.br.refuses = false ∧ 0 < opvInt32 s.opv ∧
      (8 - s.br.cur.val) + 8 * (((opvInt32 s.opv).toNat - s.br.cnt % (opvInt32 s.opv).toNat) % (opvInt32 s.opv).toNat) ≤
        (readableBits s.br).length := by decide

theorem witness_ReaderAlignStopsAtTheSourceEnd :
    let s := operand 4 (after (exec .rbool (source [0x80])))
    s.br.refuses = false ∧ 0 < opvInt32 s.opv ∧
      (readableBits s.br).length <
        (8 - s.br.cur.val) +
          8 * (((opvInt32 s.opv).toNat - s.br.cnt % (opvInt32 s.opv).toNat) % (opvInt32 s.opv).toNat) := by decide

theorem witness_ReaderCloseAlignsAndCloses : State.reset.br.refuses = false := by decide

/-- CounterReadsAlwaysSucceed, CommandsNeverStopTheMachine: the last count with a result and the first without. -/
theorem witness_CounterReadsAlwaysSucceed :
    let s (n : Nat) : State :=
      { State.reset with br := { State.reset.br with cnt := n }, bw := { State.reset.bw with cnt := n } }
    (s (2 ^ 64 - 1)).br.cnt < 2 ^ 64 ∧ (s (2 ^ 64 - 1)).bw.cnt < 2 ^ 64 ∧ 2 ^ 64 ≤ (s (2 ^ 64)).br.cnt ∧
      2 ^ 64 ≤ (s (2 ^ 64)).bw.cnt := by decide

/-- ValueReadsStopAtTheSourceEnd: a source without a byte meets every clause at every length, and a source with one byte
meets those of more than 8 bits. -/
theorem witness_ValueReadsStopAtTheSourceEnd :
    (source []).br.refuses = false ∧ (readableBits (source []).br).length < 1 ∧
      (source [0xAB]).br.refuses = false ∧ (readableBits (source [0xAB]).br).length < 9 := by decide

/-- ChunkedReadsEqualTheSerialRead, ChunkedWritesEqualTheSerialWrite: the greatest length and value of each clause. -/
theorem witness_Chunked :
    (1 ≤ 8 ∧ 8 ≤ 8 ∧ (0 : Int) ≤ 0xFF ∧ (0xFF : Int) < 2 ^ 8) ∧ (1 ≤ 16 ∧ 16 ≤ 16 ∧ (0xFFFF : Int) < 2 ^ 16) ∧
      (1 ≤ 31 ∧ 31 ≤ 31 ∧ (0x7FFFFFFF : Int) < 2 ^ 31) ∧ (1 ≤ 63 ∧ 63 ≤ 63 ∧ (0x7FFFFFFFFFFFFFFF : Int) < 2 ^ 63) := by
  decide

/-- The operands of BooleanWrite, UnsignedWrites, SignedWrites at the ends of their ranges. -/
theorem witness_operands_of_writes :
    (opvInt32 0 = 0 ∧ opvInt32 1 = 1) ∧
      (0 ≤ opvInt32 0xFF ∧ opvInt32 0xFF < 2 ^ 8) ∧ (0 ≤ opvInt32 0xFFFF ∧ opvInt32 0xFFFF < 2 ^ 16) ∧
      (0 ≤ opvInt32 0x7FFFFFFF ∧ opvInt32 0x7FFFFFFF < 2 ^ 31) ∧
      (0 ≤ opvInt64 0x7FFFFFFFFFFFFFFF ∧ opvInt64 0x7FFFFFFFFFFFFFFF < 2 ^ 63) ∧
      (-2 ^ (2 - 1) ≤ opvInt32 0xFFFFFFFE ∧ opvInt32 0xFFFFFFFE < 2 ^ (2 - 1)) ∧
      (-2 ^ (32 - 1) ≤ opvInt32 0x80000000 ∧ opvInt32 0x80000000 < 2 ^ (32 - 1)) ∧
      (-2 ^ (64 - 1) ≤ opvInt64 0x8000000000000000 ∧ opvInt64 0x8000000000000000 < 2 ^ (64 - 1)) := by decide

/-- BooleanWrite, UnsignedWrites, SignedWrites, FloatWrites, ChunkedWrites: a state that meets the premises of `WritesBits`
for every number of bits up to 64. -/
theorem witness_WritesBits :
    State.reset.bw.refuses = false ∧ State.reset.bw.cur.val < 8 ∧ acceptsPushes (pushesFor 64 State.reset.bw) State.reset.bw := by
  refine ⟨by decide, by decide, ?_⟩
  unfold acceptsPushes
  decide

/-- PrefixedWriteProducesCountAndElements: three elements. -/
theorem witness_PrefixedWriteProducesCountAndElements :
    let s := operand 3 (elements [(0, 0x48), (1, 0x69), (2, 0x21)])
    s.bw.refuses = false ∧ s.bw.cur.val < 8 ∧ opvInt32 s.opv = (3 : Nat) ∧ 3 < 2 ^ 4 ∧
      acceptsPushes (pushesFor 25 s.bw) s.bw := by
  refine ⟨by decide, by decide, by decide, by decide, ?_⟩
  unfold acceptsPushes
  decide

/-- WriterAlignPadsToTheBoundary, WriterCloseDrainsAndCloses, AlignIsIdempotent: a bit pending, boundary 4. -/
theorem witness_WriterAlignPadsToTheBoundary :
    let s := operand 4 onePending
    s.bw.refuses = false ∧ s.bw.cur.val < 8 ∧ 0 < opvInt32 s.opv ∧ acceptsPushes (pushesFor 31 s.bw) s.bw ∧
      (∃ t, exec .walign s = .next t ∧ ∃ res, t.response = some { status := .ok, res := res }) := by
  refine ⟨by decide, by decide, by decide, ?_, _, rfl, 31, by decide⟩
  unfold acceptsPushes
  decide

/-- ValueWritesStopAtAFailedPush: the premises of `StopsAtFailedPush` at the least number of bits, and operands of every
clause. -/
theorem witness_ValueWritesStopAtAFailedPush :
    lastBitFails.bw.refuses = false ∧ lastBitFails.bw.cur.val < 8 ∧ 0 < pushesFor 1 lastBitFails.bw ∧
      acceptsPushes 0 lastBitFails.bw ∧ lastBitFails.bw.snk.pushAnswers[0]? = some (.fail 0x2A) ∧
      ¬ invalidOperands (.wu8 1) 1 ∧ ¬ invalidOperands (.wu16 16) 0xFFFF ∧ ¬ invalidOperands (.wu32 31) 0x7FFFFFFF ∧
      ¬ invalidOperands (.ws32 2) 1 ∧ ¬ invalidOperands (.wu64 63) 1 ∧ ¬ invalidOperands (.ws64 2) 1 := by
  refine ⟨by decide, by decide, by decide, ?_, by decide, ?_⟩
  · unfold acceptsPushes
    decide
  · simp only [invalidOperands]
    decide

/-- CompositeWritesStopAtAFailedPush: each clause needs the push that fails. -/
theorem witness_CompositeWritesStopAtAFailedPush :
    lastBitFails.bw.refuses = false ∧ lastBitFails.bw.cur.val < 8 ∧ acceptsPushes 0 lastBitFails.bw ∧
      lastBitFails.bw.snk.pushAnswers[0]? = some (.fail 0x2A) ∧ opvInt32 (operand 0 lastBitFails).opv = (0 : Nat) ∧
      0 < pushesFor (intBits 1 0).length lastBitFails.bw ∧ 0 < opvInt32 (operand 1 lastBitFails).opv ∧
      0 < pushesFor ((8 - lastBitFails.bw.cur.val) % 8) lastBitFails.bw := by
  refine ⟨by decide, by decide, ?_, by decide, by decide, by decide, by decide, by decide⟩
  unfold acceptsPushes
  decide

/-- InvalidArgumentsChangeNothingButTheError: a reader's and a writer's command, lengths and values at the ends. -/
theorem witness_InvalidArgumentsChangeNothingButTheError :
    invalidOperands (.ru8 9) 0 ∧ (Instr.ru8 9).onWriter = false ∧ State.reset.br.refuses = false ∧
      invalidOperands (.ws32 8) 128 ∧ invalidOperands .walign 0 ∧ (Instr.ws32 8).onWriter = true ∧
      State.reset.bw.refuses = false := by
  simp only [invalidOperands]
  decide

/-- InvalidArgumentsChangeNothingButTheError: a command that is answered with INVALID_ARGUMENT. -/
theorem witness_invalid_argument_response :
    ∃ t, exec .wbool (operand 2 State.reset) = .next t ∧
      t.response = some { status := .error .invalidArgument, res := 0 } := ⟨_, rfl, by decide⟩

/-- A poisoned reader and a closed writer, with a command waiting. -/
def refusing : State :=
  { State.reset with
    br := { State.reset.br with err := some .endOfStream }
    bw := { State.reset.bw with closed := true }
    host := [.command 0x01000000 0] }

/-- PoisonedOrClosedUnitsRefuse: a legal word and an illegal one, at the end of BR's half and the start of BW's. -/
theorem witness_PoisonedOrClosedUnitsRefuse :
    (∀ i, decode 0x01000000 = .ok i → isCounterRead i = false) ∧ fieldOp 0x01000000 < 128 ∧ refusing.br.err ≠ none ∧
      (∀ i, decode 0x80000000 = .ok i → isCounterRead i = false) ∧ 128 ≤ fieldOp 0x80000000 ∧
      refusing.bw.closed = true := by
  refine ⟨fun i h => ?_, by decide, by decide, fun i h => ?_, by decide, by decide⟩
  · have e : decode 0x01000000 = .ok .rbool := by decide
    rw [e] at h
    cases h
    rfl
  · have e : decode 0x80000000 = .error .unassignedOpcode := by decide
    rw [e] at h
    cases h

/-- RefusingUnitsStayAsTheyAreUntilReset: both units, and for BW the clause without a write of EBW. -/
theorem witness_RefusingUnitsStayAsTheyAreUntilReset :
    (∃ t, step refusing = .next t) ∧ refusing.br.refuses = true ∧ refusing.bw.refuses = true ∧
      (∀ a rest, refusing.host = a :: rest → a ≠ .control .resetReader ∧
        ∀ xs ys, a ≠ .control (.bindReader xs ys)) ∧
      (∀ a rest, refusing.host = a :: rest → a ≠ .control .resetWriter ∧
        ∀ xs ys, a ≠ .control (.bindWriter xs ys)) ∧
      (∀ i b rest, refusing.host ≠ .control (.writeEbw i b) :: rest) := by
  refine ⟨⟨_, rfl⟩, by decide, by decide, fun a rest h => ?_, fun a rest h => ?_, fun i b rest h => by cases h⟩ <;>
    cases h <;> exact ⟨by decide, fun _ _ => by simp⟩

/-- RefusingUnitsStayAsTheyAreUntilReset: a closed BW and the host's write of the last entry of EBW. -/
theorem witness_refusing_unit_and_buffer_write :
    let s : State := { refusing with host := [.control (.writeEbw 65535 1)] }
    (∃ t, step s = .next t) ∧ s.bw.refuses = true ∧ s.hung = none ∧ s.host = .control (.writeEbw 65535 1) :: [] ∧
      (∀ a rest, s.host = a :: rest → a ≠ .control .resetWriter ∧ ∀ xs ys, a ≠ .control (.bindWriter xs ys)) := by
  refine ⟨⟨_, rfl⟩, by decide, by decide, by decide, fun a rest h => ?_⟩
  cases h
  exact ⟨by decide, fun _ _ => by simp⟩

/-- CommandsNeverStopTheMachine: a command of BR with a response and one of BW without. -/
theorem witness_CommandsNeverStopTheMachine :
    State.reset.br.cnt < 2 ^ 64 ∧ State.reset.bw.cnt < 2 ^ 64 ∧ (sink [] [.noAnswer]).bw.cnt < 2 ^ 64 ∧
      (∃ t, exec .rclose State.reset = .next t ∧ t.response ≠ none) ∧
      (∃ t, exec .wclose (sink [] [.noAnswer]) = .next t ∧ t.response = none) :=
  ⟨by decide, by decide, by decide, ⟨_, rfl, by decide⟩, ⟨_, rfl, by decide⟩⟩

/-- ResponsesStayInTheStatusTable, ErrorsAreRecordedInTheirUnit, UnitsAreIndependent, CommandsKeepTheRestOfTheMachine,
CountersAndHistoriesOnlyGrow: a command of each unit with a next state and a response, one of them an error. -/
theorem witness_commands_with_a_next_state :
    (∃ t, exec .rbool State.reset = .next t ∧ t.response = some { status := .error .endOfStream, res := 0 }) ∧
      (∃ t, exec .wbool (operand 1 State.reset) = .next t ∧ t.response = some { status := .ok, res := 0 }) := by
  exact ⟨⟨_, rfl, by decide⟩, ⟨_, rfl, by decide⟩⟩

/-- IgnoredOperandBitsHaveNoEffect: two operands that differ in the ignored bits only. -/
theorem witness_IgnoredOperandBitsHaveNoEffect :
    (∃ t, exec .wbool (operand 1 State.reset) = .next t) ∧ opvLow 0xFFFFFFFF00000001 = opvLow (operand 1 State.reset).opv ∧
      (Instr.rbool.onWriter = false ∧ Instr.rbool ≠ .ralign) := by
  exact ⟨⟨_, rfl⟩, by decide, by decide⟩

/-- PaddingWrittenIsPaddingSkipped: a bit written and a bit read, boundary 2. -/
theorem witness_PaddingWrittenIsPaddingSkipped :
    let s : State := operand 2 { onePending with br := (after (exec .rbool (source [0x80, 0]))).br }
    s.bw.refuses = false ∧ s.bw.cur.val < 8 ∧ s.br.refuses = false ∧
      8 * s.br.cnt + s.br.cur.val = 8 * s.bw.cnt + s.bw.cur.val + 8 ∧ 1 ≤ s.br.cur.val ∧
      (∃ t, exec .walign s = .next t ∧ t.response = some { status := .ok, res := 15 }) ∧
      (∃ u, exec .ralign s = .next u ∧ u.response = some { status := .ok, res := 15 }) := by
  refine ⟨by decide, by decide, by decide, by decide, by decide, ⟨_, rfl, by decide⟩, ⟨_, rfl, by decide⟩⟩

/-- ElementBuffersReadBackWhatWasWritten: a buffer in canonical form, at the last index. -/
theorem witness_ElementBuffersReadBackWhatWasWritten :
    Memory.wf [(0, 0x48), (65535, 0x21)] ∧ ∀ i, memPeek [(65535, 0x21)] i = memPeek (memWrite [] 65535 0x21) i := by
  exact ⟨by decide, fun _ => rfl⟩

/-- HostBufferAccesses: the last index and the first that is none. -/
theorem witness_HostBufferAccesses :
    let s (c : HostControl) : State := { State.reset with host := [.control c] }
    (s (.writeEbw 65535 1)).host = .control (.writeEbw 65535 1) :: [] ∧ (s (.readEbw 65536)).host = .control (.readEbw 65536) :: [] ∧
      (s (.readEbr 0)).host = .control (.readEbr 0) :: [] ∧ (s (.readEbr 0)).hung = none := by decide

/-- EveryStepKeepsTheInvariant: reset, with a command that has a next state. -/
theorem witness_EveryStepKeepsTheInvariant :
    let s : State := { State.reset with host := [.command 0x01000000 0] }
    s.Inv ∧ ∃ t, step s = .next t := by
  refine ⟨⟨?_, ?_, by decide, fun u h => by cases h⟩, _, rfl⟩ <;> constructor <;> decide

/-- MirroredReadsReturnTheValuesWritten: a bit and a 7-bit -1, drained by WCLOSE and read back. -/
theorem witness_MirroredReadsReturnTheValuesWritten :
    ∃ (prog : List (Instr × Word64)) (mirror : List Instr) (drain : Instr) (s t u r : State) (vs : List Word64)
        (opv res : Word64),
      prog.map (fun p => mirrorOf p.1) = mirror.map some ∧ drain = .wclose ∧ s.bw.cur.val = 0 ∧ s.bw.err = none ∧
        s.bw.closed = false ∧ s.bw.snk.events = [] ∧
        runAll prog s = some (vs, t) ∧ exec drain { t with opv := opv } = .next u ∧
        u.response = some { status := .ok, res := res } ∧ r.br.cur.val = 8 ∧ r.br.err = none ∧ r.br.closed = false ∧
        r.br.src.answers = (pushedBytes u.bw.snk.events).map PullAnswer.byte :=
  ⟨[(.wbool, 1), (.ws32 7, 0xFFFFFFFF)], [.rbool, .rs32 7], .wclose, State.reset, _, _, source [0xFF], [0, 0], 1, 0, rfl,
    rfl, rfl, rfl, rfl, rfl, rfl, rfl, rfl, rfl, rfl, rfl, rfl⟩

/-- MirroredReadsReturnTheValuesWritten: three bits, drained by WALIGN with its 5 bits of padding. -/
theorem witness_MirroredReads_drained_by_walign :
    ∃ (prog : List (Instr × Word64)) (mirror : List Instr) (drain : Instr) (s t u r : State) (vs : List Word64)
        (opv res : Word64),
      prog.map (fun p => mirrorOf p.1) = mirror.map some ∧ drain = .walign ∧ s.bw.cur.val = 0 ∧ s.bw.err = none ∧
        s.bw.closed = false ∧ s.bw.snk.events = [] ∧
        runAll prog s = some (vs, t) ∧ exec drain { t with opv := opv } = .next u ∧
        u.response = some { status := .ok, res := res } ∧ r.br.cur.val = 8 ∧ r.br.err = none ∧ r.br.closed = false ∧
        r.br.src.answers = (pushedBytes u.bw.snk.events).map PullAnswer.byte :=
  ⟨[(.wu8 3, 5)], [.ru8 3], .walign, State.reset, _, _, source [0xA0], [0], 1, 5, rfl,
    rfl, rfl, rfl, rfl, rfl, rfl, rfl, rfl, rfl, rfl, rfl, rfl⟩

end Sys2Proof.Tests
end

section
/-!
PROOF. The two units share no state (R2, R72): the wrapper of each unit (R110) keeps the other unit and does not read it,
and every command but the counter reads is such a wrapper around its `Sem`.
-/
namespace Sys2Proof.Machine

/-- The wrapper of a BR command keeps BW, and replacing BW changes nothing but BW. -/
theorem runReader_independent {sem : Reader → Res Reader Word64} {s t : State} (h : runReader sem s = .next t) :
    t.bw = s.bw ∧ ∀ w, runReader sem { s with bw := w } = .next { t with bw := w } := by
  obtain ⟨refuses, rfl⟩ | ⟨accepts, ⟨v, r, eq, rfl⟩ | ⟨e, r, eq, rfl⟩ | ⟨r, eq, rfl⟩⟩ := runReader_cases h
  · exact ⟨rfl, fun w => by simp only [runReader, refuses]; rfl⟩
  · exact ⟨rfl, fun w => by simp only [runReader, accepts, eq]; rfl⟩
  · exact ⟨rfl, fun w => by simp only [runReader, accepts, eq]; rfl⟩
  · exact ⟨rfl, fun w => by simp only [runReader, accepts, eq]; rfl⟩

/-- The wrapper of a BW command keeps BR, and replacing BR changes nothing but BR. -/
theorem runWriter_independent {sem : Writer → Res Writer Word64} {s t : State} (h : runWriter sem s = .next t) :
    t.br = s.br ∧ ∀ r, runWriter sem { s with br := r } = .next { t with br := r } := by
  obtain ⟨refuses, rfl⟩ | ⟨accepts, ⟨v, w, eq, rfl⟩ | ⟨e, w, eq, rfl⟩ | ⟨w, eq, rfl⟩⟩ := runWriter_cases h
  · exact ⟨rfl, fun r => by simp only [runWriter, refuses]; rfl⟩
  · exact ⟨rfl, fun r => by simp only [runWriter, accepts, eq]; rfl⟩
  · exact ⟨rfl, fun r => by simp only [runWriter, accepts, eq]; rfl⟩
  · exact ⟨rfl, fun r => by simp only [runWriter, accepts, eq]; rfl⟩

/-- A counter read changes neither unit, and what it answers is given by the count alone. -/
theorem runCounter_independent {cnt : Nat} {s t : State} (h : runCounter cnt s = .next t) :
    (t.bw = s.bw ∧ ∀ w, runCounter cnt { s with bw := w } = .next { t with bw := w }) ∧
      (t.br = s.br ∧ ∀ r, runCounter cnt { s with br := r } = .next { t with br := r }) := by
  obtain ⟨hasForm, rfl⟩ := runCounter_cases h
  exact ⟨⟨rfl, fun w => if_pos hasForm⟩, rfl, fun r => if_pos hasForm⟩

/-- A BR command keeps BW and does not read it. -/
theorem exec_reader_independent {i : Instr} {s t : State} (unit : i.onWriter = false) (h : exec i s = .next t) :
    t.bw = s.bw ∧ ∀ w, exec i { s with bw := w } = .next { t with bw := w } := by
  by_cases counter : i = .rcnt
  · subst counter
    exact (runCounter_independent h).1
  · obtain ⟨sem, exec_eq⟩ := exec_reader i unit counter
    simp only [exec_eq] at h ⊢
    exact runReader_independent h

/-- A BW command keeps BR and does not read it. -/
theorem exec_writer_independent {i : Instr} {s t : State} (unit : i.onWriter = true) (h : exec i s = .next t) :
    t.br = s.br ∧ ∀ r, exec i { s with br := r } = .next { t with br := r } := by
  by_cases counter : i = .wcnt
  · subst counter
    exact (runCounter_independent h).2
  · obtain ⟨sem, exec_eq⟩ := exec_writer i unit counter
    simp only [exec_eq] at h ⊢
    exact runWriter_independent h

/-- Settles O38: each command runs inside its own unit's wrapper, or reads its own unit's counter. -/
theorem unitsAreIndependent : Obligations.UnitsAreIndependent := by
  unfold Obligations.UnitsAreIndependent
  intro i s t h
  exact ⟨fun unit => exec_reader_independent unit h, fun unit => exec_writer_independent unit h⟩

end Sys2Proof.Machine
end

section
/-!
PROOF. How a piece of pseudocode may leave its unit: `Res.EndsIn`, a triple with one rule for sequencing and one for
validation, and where the shared operations leave the cursor.
-/
namespace Sys2Proof.Machine

/-! ### Triples of pseudocode -/

/-- What is to hold of a unit when its command completes, raises or is left unfinished. -/
structure Leaves (σ : Type) where
  done : σ → Prop
  raised : Raise → σ → Prop
  hung : σ → Prop

/-- `x` returns only as `D` says, and raises or hangs only as `X` says. -/
def Res.EndsIn {σ α : Type} (x : Res σ α) (D : α → σ → Prop) (X : Leaves σ) : Prop :=
  match x with
  | .done v s => D v s
  | .raise e s => X.raised e s
  | .hang s => X.hung s

section
variable {σ α β : Type} {X : Leaves σ} {D : α → σ → Prop} {D' : β → σ → Prop}

/-- Sequencing: what follows starts where the first piece returned, and nothing follows a raise or a hang (R11). -/
theorem Res.EndsIn.bind {x : Res σ α} {f : α → σ → Res σ β} (first : x.EndsIn D X)
    (next : ∀ v s, x = .done v s → D v s → (f v s).EndsIn D' X) : (x.bind f).EndsIn D' X := by
  cases x with
  | done v s => exact next v s rfl first
  | raise e s => exact first
  | hang s => exact first

/-- Validation: the operation behind a test of the operands (R281). -/
theorem Res.EndsIn.checked {x : Res σ α} {test : Bool} {s : σ} (passed : test = true → x.EndsIn D X)
    (failed : X.raised .invalidArgument s) : (if test then x else .raise .invalidArgument s).EndsIn D X := by
  split
  · exact passed ‹_›
  · exact failed

/-- Validation stated by what is wrong with the operands. -/
theorem Res.EndsIn.unless {x : Res σ α} {bad : Prop} [Decidable bad] {s : σ} (passed : x.EndsIn D X)
    (failed : X.raised .invalidArgument s) : (if bad then .raise .invalidArgument s else x).EndsIn D X := by
  split
  · exact failed
  · exact passed

end

/-! ### Cursors and values -/

theorem nextCur_pos (c : Fin 9) : 1 ≤ (nextCur c).val := by
  unfold nextCur
  split
  · exact Nat.le_add_left 1 c.val
  · omega

theorem shiftLeft_or_lt {a b m n : Nat} (ha : a < 2 ^ m) (hb : b < 2 ^ n) : a <<< n ||| b < 2 ^ (m + n) :=
  Nat.or_lt_two_pow (Nat.shiftLeft_lt ha) (hb.trans_le (Nat.pow_le_pow_right two_pos (Nat.le_add_left n m)))

/-- `len` flags taken from a window are a number of `len` bits, on top of those taken before. -/
theorem rTake_lt (n v : Nat) (r : Reader) : (rTake n v r).1 < (v + 1) * 2 ^ n := by
  induction n generalizing v r with
  | zero => simp [rTake]
  | succ n ih =>
    have flag : 2 * v + (flagAt r.win r.cur).toNat + 1 ≤ (v + 1) * 2 := by
      have := Bool.toNat_le (flagAt r.win r.cur)
      omega
    calc (rTake (n + 1) v r).1 < (2 * v + (flagAt r.win r.cur).toNat + 1) * 2 ^ n := ih _ _
      _ ≤ (v + 1) * 2 * 2 ^ n := Nat.mul_le_mul_right _ flag
      _ = (v + 1) * 2 ^ (n + 1) := by ring

theorem rTake_cur (n v : Nat) (r : Reader) (h : r.cur.val + n ≤ 8) : (rTake n v r).2.cur.val = r.cur.val + n := by
  induction n generalizing v r with
  | zero => rfl
  | succ n ih =>
    have next := nextCur_val r.cur (by omega)
    have rest := ih (2 * v + (flagAt r.win r.cur).toNat) { r with cur := nextCur r.cur } (by simp only [next]; omega)
    simp only [rTake, rest, next]
    omega

theorem wPack_cur (n : Nat) (v : Int) (w : Writer) (h : w.cur.val + n ≤ 8) : (wPack n v w).cur.val = w.cur.val + n := by
  induction n generalizing w with
  | zero => rfl
  | succ n ih =>
    have next : (wPutFlag (bitOf v n) w).cur.val = w.cur.val + 1 := nextCur_val w.cur (by omega)
    rw [wPack, ih _ (by omega), next]
    omega

/-- After `if R.CUR = 8: R_Refill()` a bit is buffered. -/
theorem rEnsure_done {r r' : Reader} {u : Unit} (h : rEnsure r = .done u r') : r'.cur.val < 8 := by
  rcases Nat.lt_or_ge r.cur.val 8 with lt | ge
  · rw [rEnsure_of_lt r lt] at h
    cases h
    exact lt
  · rw [rEnsure_of_eq r (by omega)] at h
    simp [rRefill_done h]

/-- Dropping the buffered bits empties the window (R188). -/
theorem rDropBuffered_done {r r' : Reader} {u : Unit} (h : rDropBuffered r = .done u r') : r'.cur.val = 8 := by
  unfold rDropBuffered at h
  split at h
  · rename_i lt
    have piece : rBits8 (8 - r.cur.val) r = .done (rTake (8 - r.cur.val) 0 r).1 (rTake (8 - r.cur.val) 0 r).2 := by
      rw [rBits8, rEnsure_of_lt r lt, Res.bind_done, if_pos le_rfl, rPiece, rEnsure_of_lt r lt, Res.bind_done]
    rw [piece] at h
    cases h
    rw [rTake_cur _ _ _ (by omega)]
    omega
  · cases h
    omega

/-- Finishing the byte empties the window (R253). -/
theorem wFinishByte_done {w w' : Writer} {u : Unit} (h : wFinishByte w = .done u w') : w'.cur.val = 0 := by
  unfold wFinishByte at h
  split at h
  · have full : (wPack (8 - w.cur.val) 0 w).cur.val = 8 := by
      rw [wPack_cur _ _ _ (by omega)]
      omega
    have piece : wBits8 (8 - w.cur.val) 0 w = wFlush (wPack (8 - w.cur.val) 0 w) := by
      rw [wBits8, if_neg (by omega), if_neg (by omega), wPiece, wFlushIfFull_of_eq _ full]
    rw [piece, wFlush_eq] at h
    simp only at h
    split at h <;> cases h
    rfl
  · cases h
    omega

end Sys2Proof.Machine
end

section
/-!
PROOF. What BR's commands keep. `ReaderRule` lists what a property of BR has to survive: the refill, a flag taken, an entry
stored, the close. From that the triples of the micro-operations and of all BR commands follow, once for every property.
-/
namespace Sys2Proof.Machine

/-- A property `P` of BR between micro-operations, and `Q` of BR while flags are taken from its window, that command `i`
keeps and that give `X` at its end. -/
structure ReaderRule (i : Instr) (P Q : Reader → Prop) (X : Leaves Reader) : Prop where
  weaken : ∀ r, P r → Q r
  filled : ∀ r, Q r → (rEnsure r).EndsIn (fun _ => Q) X
  taken : ∀ r, Q r → P { r with cur := nextCur r.cur }
  stored : ∀ scale range, i = .rlpb scale range →
    ∀ r k b, k < Config.ebSize → P r → P { r with ebr := memWrite r.ebr k b }
  rejected : ∀ r, P r → X.raised .invalidArgument r
  closes : i = .rclose → ∀ r, P r → r.cur.val = 8 → (rCloseChannel r).EndsIn (fun _ => X.done) X
  finished : ∀ r, P r → X.done r

/-- `op` reads a number of `len` bits and keeps `P`. -/
def Reads (P : Reader → Prop) (X : Leaves Reader) (len : Nat) (op : Reader → Res Reader Nat) : Prop :=
  ∀ r, P r → (op r).EndsIn (fun v r' => v < 2 ^ len ∧ P r') X

theorem Reads.nothing {P : Reader → Prop} {X : Leaves Reader} : Reads P X 0 (.done 0) :=
  fun _ h => ⟨Nat.one_pos, h⟩

/-- The loop over whole chunks reads as many bits as they have. -/
theorem Reads.rRepeat_reads {P : Reader → Prop} {X : Leaves Reader} {width : Nat} {chunk : Reader → Res Reader Nat}
    (reads : Reads P X width chunk) {k : Nat} (q v : Nat) (hv : v < 2 ^ k) :
    Reads P X (k + width * q) (rRepeat chunk width q v) := by
  induction q generalizing k v with
  | zero => exact fun _ h => ⟨hv, h⟩
  | succ q ih =>
    refine fun r h => (reads r h).bind fun c r' _ ⟨hc, h'⟩ => ?_
    have rest := ih _ (shiftLeft_or_lt hv hc) r' h'
    rwa [show k + width * (q + 1) = k + width + width * q by ring]

/-- The remainder chunk and then the whole chunks (R143 to R145) read `len` bits, if the chunks do. -/
theorem Reads.chunked {P : Reader → Prop} {X : Leaves Reader} {op : Nat → Reader → Res Reader Nat} {width : Nat}
    (pos : 1 ≤ width) (reads : ∀ n, 1 ≤ n → Reads P X n (op n)) (len : Nat) :
    Reads P X len fun r =>
      (if 0 < len % width then op (len % width) r else .done 0 r).bind (rRepeat (op width) width (len / width)) := by
  intro r h
  have remainder : (if 0 < len % width then op (len % width) r else .done 0 r).EndsIn
      (fun v r' => v < 2 ^ (len % width) ∧ P r') X := by
    split
    · exact reads _ ‹_› r h
    · rw [show len % width = 0 by omega]
      exact Reads.nothing r h
  refine remainder.bind fun v r' _ ⟨hv, h'⟩ => ?_
  have whole := (reads width pos).rRepeat_reads (len / width) v hv r' h'
  rwa [Nat.mod_add_div] at whole

namespace ReaderRule
variable {i : Instr} {P Q : Reader → Prop} {X : Leaves Reader} (rule : ReaderRule i P Q X)
include rule

theorem rBit_ends {r : Reader} (h : P r) : (rBit r).EndsIn (fun _ => P) X :=
  (rule.filled r (rule.weaken r h)).bind fun _ r' _ h' => rule.taken r' h'

theorem rTake_keeps (n v : Nat) {r : Reader} (h : P r) : P (rTake n v r).2 := by
  induction n generalizing v r with
  | zero => exact h
  | succ n ih => exact ih _ (rule.taken r (rule.weaken r h))

theorem rPiece_reads {len : Nat} (pos : 1 ≤ len) {r : Reader} (h : Q r) :
    (rPiece len r).EndsIn (fun v r' => v < 2 ^ len ∧ P r') X := by
  refine (rule.filled r h).bind fun _ r' _ h' => ⟨?_, ?_⟩
  · simpa using rTake_lt len 0 r'
  · obtain ⟨n, rfl⟩ := Nat.exists_eq_add_of_le' pos
    exact rule.rTake_keeps n _ (rule.taken r' h')

theorem rBits8_reads {len : Nat} (pos : 1 ≤ len) : Reads P X len (rBits8 len) := by
  refine fun r h => (rule.filled r (rule.weaken r h)).bind fun _ r' done h' => ?_
  have buffered := rEnsure_done done
  split
  · exact rule.rPiece_reads pos h'
  · refine (rule.rPiece_reads (by omega) h').bind fun high r₁ _ ⟨hHigh, h₁⟩ => ?_
    refine (rule.rPiece_reads (by omega) (rule.weaken r₁ h₁)).bind fun low r₂ _ ⟨hLow, h₂⟩ => ⟨?_, h₂⟩
    have both := shiftLeft_or_lt hHigh hLow
    rwa [show 8 - r'.cur.val + (len - (8 - r'.cur.val)) = len by omega] at both

theorem rU16_reads (len : Nat) : Reads P X len (rU16 len) :=
  Reads.chunked (by decide) (fun _ pos => rule.rBits8_reads pos) len

theorem rU32_reads (len : Nat) : Reads P X len (rU32 len) :=
  Reads.chunked (by decide) (fun n _ => rule.rU16_reads n) len

theorem rU64_reads (len : Nat) : Reads P X len (rU64 len) :=
  Reads.chunked (by decide) (fun n _ => rule.rU32_reads n) len

theorem rDropBuffered_ends {r : Reader} (h : P r) : (rDropBuffered r).EndsIn (fun _ => P) X := by
  unfold rDropBuffered
  split
  · exact (rule.rBits8_reads (by omega) r h).bind fun _ _ _ h' => h'.2
  · exact h

theorem rDiscardBytes_ends (k : Nat) {r : Reader} (h : P r) : (rDiscardBytes k r).EndsIn (fun _ => P) X := by
  induction k generalizing r with
  | zero => exact h
  | succ k ih => exact (rule.rBits8_reads (by decide) r h).bind fun _ _ _ h' => ih h'.2

/-- RLPB's loop stays inside EBR as long as its last index does. -/
theorem rElements_ends {scale range : Nat} (hi : i = .rlpb scale range) (pos : 1 ≤ range) (n k : Nat)
    (fits : k + n ≤ Config.ebSize) {r : Reader} (h : P r) : (rElements range n k r).EndsIn (fun _ => P) X := by
  induction n generalizing k r with
  | zero => exact h
  | succ n ih =>
    exact (rule.rBits8_reads pos r h).bind fun e r' _ h' =>
      ih (k + 1) (by omega) (rule.stored _ _ hi r' k _ (by omega) h'.2)

/-- A command that validates its length, reads one number and returns it. -/
theorem read_checked {test : Bool} {len : Nat} {op : Reader → Res Reader Nat} (reads : test = true → Reads P X len op)
    {r : Reader} (h : P r) (value : Nat → Word64) :
    (if test then (op r).bind fun v r' => Res.done (value v) r' else .raise .invalidArgument r).EndsIn
      (fun _ => X.done) X :=
  .checked (fun passed => (reads passed r h).bind fun _ r' _ h' => rule.finished r' h'.2) (rule.rejected r h)

/-- A command that reads a sign and then a number. -/
theorem read_signed {len : Nat} {op : Reader → Res Reader Nat} (reads : Reads P X len op) {r : Reader} (h : P r)
    (value : Bool → Nat → Word64) :
    ((rBit r).bind fun sign r' => (op r').bind fun m r'' => Res.done (value sign m) r'').EndsIn
      (fun _ => X.done) X :=
  (rule.rBit_ends h).bind fun _ r' _ h' => (reads r' h').bind fun _ r'' _ h'' => rule.finished r'' h''.2

theorem semRlpb_ends {scale range : Nat} (hi : i = .rlpb scale range) {r : Reader} (h : P r) :
    (semRlpb scale range r).EndsIn (fun _ => X.done) X := by
  refine .checked (fun ranges => ?_) (rule.rejected r h)
  simp only [Bool.and_eq_true, inRange_iff] at ranges
  obtain ⟨⟨-, scaleMax⟩, rangeMin, -⟩ := ranges
  refine (rule.rU32_reads scale r h).bind fun n r' _ ⟨hn, h'⟩ => ?_
  have fits : n ≤ Config.ebSize := hn.le.trans (Nat.pow_le_pow_right two_pos scaleMax)
  exact (rule.rElements_ends hi rangeMin n 0 (by omega) h').bind fun _ r'' _ h'' => rule.finished r'' h''

theorem semRalign_ends (opv : Word64) {r : Reader} (h : P r) : (semRalign opv r).EndsIn (fun _ => X.done) X :=
  .unless ((rule.rDropBuffered_ends h).bind fun _ _ _ h' => (rule.rDiscardBytes_ends _ h').bind fun _ r'' _ h'' =>
    rule.finished r'' h'') (rule.rejected r h)

theorem semRclose_ends (hi : i = .rclose) {r : Reader} (h : P r) : (semRclose r).EndsIn (fun _ => X.done) X :=
  (rule.rDropBuffered_ends h).bind fun _ r' done h' =>
    (rule.closes hi r' h' (rDropBuffered_done done)).bind fun _ _ _ h'' => h''

/-- Every BR command but RCNT. -/
theorem exec_sem (unit : i.onWriter = false) (ne : i ≠ .rcnt) :
    ∃ sem : Word64 → Reader → Res Reader Word64, (∀ s, exec i s = runReader (sem s.opv) s) ∧
      ∀ opv r, P r → (sem opv r).EndsIn (fun _ => X.done) X := by
  cases i with
  | rbool =>
    exact ⟨fun _ => semRbool, fun _ => rfl, fun _ r h =>
      (rule.rBit_ends h).bind fun _ r' _ h' => rule.finished r' h'⟩
  | ru8 len =>
    exact ⟨fun _ => semRu8 len, fun _ => rfl, fun _ r h =>
      rule.read_checked (fun range => rule.rBits8_reads ((inRange_iff 1 8 len).1 range).1) h _⟩
  | ru16 len =>
    exact ⟨fun _ => semRu16 len, fun _ => rfl, fun _ r h => rule.read_checked (fun _ => rule.rU16_reads len) h _⟩
  | ru32 len =>
    exact ⟨fun _ => semRu32 len, fun _ => rfl, fun _ r h => rule.read_checked (fun _ => rule.rU32_reads len) h _⟩
  | rs32 len =>
    exact ⟨fun _ => semRs32 len, fun _ => rfl, fun _ r h =>
      .checked (fun _ => rule.read_signed (rule.rU32_reads (len - 1)) h _) (rule.rejected r h)⟩
  | ru64 len =>
    exact ⟨fun _ => semRu64 len, fun _ => rfl, fun _ r h => rule.read_checked (fun _ => rule.rU64_reads len) h _⟩
  | rs64 len =>
    exact ⟨fun _ => semRs64 len, fun _ => rfl, fun _ r h =>
      .checked (fun _ => rule.read_signed (rule.rU64_reads (len - 1)) h _) (rule.rejected r h)⟩
  | rf32 => exact ⟨fun _ => semRf32, fun _ => rfl, fun _ r h => rule.read_signed (rule.rU32_reads 31) h _⟩
  | rf64 => exact ⟨fun _ => semRf64, fun _ => rfl, fun _ r h => rule.read_signed (rule.rU64_reads 63) h _⟩
  | rlpb scale range => exact ⟨fun _ => semRlpb scale range, fun _ => rfl, fun _ r h => rule.semRlpb_ends rfl h⟩
  | ralign => exact ⟨semRalign, fun _ => rfl, fun opv r h => rule.semRalign_ends opv h⟩
  | rclose => exact ⟨fun _ => semRclose, fun _ => rfl, fun _ r h => rule.semRclose_ends rfl h⟩
  | rcnt => exact absurd rfl ne
  | _ => simp [Instr.onWriter, opcodeOf] at unit

/-- What a BR command does to the machine: it answers and changes no unit, or it leaves BR as `X` says. -/
theorem exec_cases (unit : i.onWriter = false) {s t : State} (h : exec i s = .next t)
    (start : s.br.refuses = false → P s.br) :
    (∃ st v, t = s.respond st v) ∨ (∃ v r, X.done r ∧ t = (s.setBr r).respond .ok v) ∨
      (∃ e r, X.raised e r ∧ t = (s.setBr r).takeError .br e) ∨ (∃ r, X.hung r ∧ t = (s.setBr r).hang .br) := by
  by_cases counter : i = .rcnt
  · subst counter
    exact .inl ⟨_, _, (runCounter_cases h).2⟩
  · obtain ⟨sem, exec_eq, ends⟩ := rule.exec_sem unit counter
    rw [exec_eq] at h
    obtain ⟨-, rfl⟩ | ⟨accepts, cases⟩ := runReader_cases h
    · exact .inl ⟨_, _, rfl⟩
    · have ends := ends s.opv s.br (start accepts)
      obtain ⟨v, r, eq, rfl⟩ | ⟨e, r, eq, rfl⟩ | ⟨r, eq, rfl⟩ := cases <;> rw [eq] at ends
      · exact .inr (.inl ⟨v, r, ends, rfl⟩)
      · exact .inr (.inr (.inl ⟨e, r, ends, rfl⟩))
      · exact .inr (.inr (.inr ⟨r, ends, rfl⟩))

end ReaderRule

end Sys2Proof.Machine
end

section
/-!
PROOF. What BW's commands keep. `WriterRule` lists what a property of BW has to survive: a flag put, the flush, the fast
path, the close. From that the triples of the micro-operations and of all BW commands follow, once for every property.
-/
namespace Sys2Proof.Machine

/-- A property `P` of BW between micro-operations, and `Q` of BW while flags are put into its window, that command `i`
keeps and that give `X` at its end. -/
structure WriterRule (i : Instr) (P Q : Writer → Prop) (X : Leaves Writer) : Prop where
  weaken : ∀ w, P w → Q w
  put : ∀ b w, Q w → Q (wPutFlag b w)
  flushed : ∀ w, Q w → (wFlushIfFull w).EndsIn (fun _ => P) X
  fast : ∀ v w, P w → w.cur.val = 0 → (wFastPath v w).EndsIn (fun _ => P) X
  rejected : ∀ w, P w → X.raised .invalidArgument w
  closes : i = .wclose → ∀ w, P w → w.cur.val = 0 → (wCloseChannel w).EndsIn (fun _ => X.done) X
  finished : ∀ w, P w → X.done w

/-- `op` writes and keeps `P`. -/
def Writes (P : Writer → Prop) (X : Leaves Writer) (op : Int → Writer → Res Writer Unit) : Prop :=
  ∀ v w, P w → (op v w).EndsIn (fun _ => P) X

/-- The loop over whole chunks keeps `P`. -/
theorem Writes.wRepeat_ends {P : Writer → Prop} {X : Leaves Writer} {chunk : Int → Writer → Res Writer Unit}
    (writes : Writes P X chunk) (width : Nat) (v : Int) (q : Nat) {w : Writer} (h : P w) :
    (wRepeat chunk width v q w).EndsIn (fun _ => P) X := by
  induction q generalizing w with
  | zero => exact h
  | succ q ih => exact (writes _ w h).bind fun _ _ _ h' => ih h'

/-- The partial chunk and then the whole chunks (R213 to R215) keep `P`, if the chunks do. -/
theorem Writes.chunked {P : Writer → Prop} {X : Leaves Writer} {op : Nat → Int → Writer → Res Writer Unit}
    (width : Nat) (writes : ∀ n, Writes P X (op n)) (len : Nat) :
    Writes P X fun v w =>
      (if 0 < len % width then op (len % width) (low (asr v (width * (len / width))) (len % width)) w
        else .done () w).bind fun _ w => wRepeat (op width) width v (len / width) w := by
  intro v w h
  have partialChunk : (if 0 < len % width then op (len % width) (low (asr v (width * (len / width))) (len % width)) w
      else .done () w).EndsIn (fun _ => P) X := by
    split
    · exact writes _ _ w h
    · exact h
  exact partialChunk.bind fun _ _ _ h' => (writes width).wRepeat_ends width v _ h'

namespace WriterRule
variable {i : Instr} {P Q : Writer → Prop} {X : Leaves Writer} (rule : WriterRule i P Q X)
include rule

theorem wBit_ends (b : Bool) {w : Writer} (h : P w) : (wBit b w).EndsIn (fun _ => P) X :=
  (rule.flushed w (rule.weaken w h)).bind fun _ w' _ h' => rule.flushed _ (rule.put b w' (rule.weaken w' h'))

theorem wPack_keeps (n : Nat) (v : Int) {w : Writer} (h : Q w) : Q (wPack n v w) := by
  induction n generalizing w with
  | zero => exact h
  | succ n ih => exact ih (rule.put _ w h)

theorem wPiece_writes (len : Nat) : Writes P X (wPiece len) :=
  fun v w h => rule.flushed _ (rule.wPack_keeps len v (rule.weaken w h))

theorem wBits8_writes (len : Nat) : Writes P X (wBits8 len) := by
  intro v w h
  unfold wBits8
  split
  · exact rule.fast v w h (And.left ‹_›)
  · split
    · exact (rule.wPiece_writes _ _ w h).bind fun _ w' _ h' => rule.wPiece_writes _ _ w' h'
    · exact rule.wPiece_writes len v w h

theorem wU16_writes (len : Nat) : Writes P X (wU16 len) := Writes.chunked _ rule.wBits8_writes len

theorem wU32_writes (len : Nat) : Writes P X (wU32 len) := Writes.chunked _ rule.wU16_writes len

theorem wU64_writes (len : Nat) : Writes P X (wU64 len) := Writes.chunked _ rule.wU32_writes len

theorem wElements_ends (range n k : Nat) {w : Writer} (h : P w) : (wElements range n k w).EndsIn (fun _ => P) X := by
  induction n generalizing k w with
  | zero => exact h
  | succ n ih => exact (rule.wBits8_writes range _ w h).bind fun _ _ _ h' => ih (k + 1) h'

theorem wFinishByte_ends {w : Writer} (h : P w) : (wFinishByte w).EndsIn (fun _ => P) X := by
  unfold wFinishByte
  split
  · exact rule.wBits8_writes _ _ w h
  · exact h

theorem wZeroBytes_ends (k : Nat) {w : Writer} (h : P w) : (wZeroBytes k w).EndsIn (fun _ => P) X := by
  induction k generalizing w with
  | zero => exact h
  | succ k ih => exact (rule.wBits8_writes 8 0 w h).bind fun _ _ _ h' => ih h'

/-- A command that validates its operands, writes one number and returns 0. -/
theorem write_checked {test : Bool} {op : Int → Writer → Res Writer Unit} (writes : Writes P X op) {w : Writer}
    (h : P w) (v : Int) :
    (if test then (op v w).bind fun _ w' => Res.done (0 : Word64) w' else .raise .invalidArgument w).EndsIn
      (fun _ => X.done) X :=
  .checked (fun _ => (writes v w h).bind fun _ w' _ h' => rule.finished w' h') (rule.rejected w h)

/-- A command that writes a sign and then a number. -/
theorem write_signed {op : Int → Writer → Res Writer Unit} (writes : Writes P X op) {w : Writer} (h : P w)
    (sign : Bool) (v : Int) :
    ((wBit sign w).bind fun _ w' => (op v w').bind fun _ w'' => Res.done (0 : Word64) w'').EndsIn
      (fun _ => X.done) X :=
  (rule.wBit_ends sign h).bind fun _ w' _ h' => (writes v w' h').bind fun _ w'' _ h'' => rule.finished w'' h''

theorem semWlpb_ends (scale range : Nat) (opv : Word64) {w : Writer} (h : P w) :
    (semWlpb scale range opv w).EndsIn (fun _ => X.done) X :=
  .checked (fun _ => (rule.wU32_writes scale _ w h).bind fun _ _ _ h' =>
    (rule.wElements_ends range _ 0 h').bind fun _ w'' _ h'' => rule.finished w'' h'') (rule.rejected w h)

theorem semWalign_ends (opv : Word64) {w : Writer} (h : P w) : (semWalign opv w).EndsIn (fun _ => X.done) X :=
  .unless ((rule.wFinishByte_ends h).bind fun _ _ _ h' => (rule.wZeroBytes_ends _ h').bind fun _ w'' _ h'' =>
    rule.finished w'' h'') (rule.rejected w h)

theorem semWclose_ends (hi : i = .wclose) {w : Writer} (h : P w) : (semWclose w).EndsIn (fun _ => X.done) X :=
  (rule.wFinishByte_ends h).bind fun _ w' done h' =>
    (rule.closes hi w' h' (wFinishByte_done done)).bind fun _ _ _ h'' => h''

/-- Every BW command but WCNT. -/
theorem exec_sem (unit : i.onWriter = true) (ne : i ≠ .wcnt) :
    ∃ sem : Word64 → Writer → Res Writer Word64, (∀ s, exec i s = runWriter (sem s.opv) s) ∧
      ∀ opv w, P w → (sem opv w).EndsIn (fun _ => X.done) X := by
  cases i with
  | wbool =>
    exact ⟨semWbool, fun _ => rfl, fun opv w h =>
      .unless ((rule.wBit_ends _ h).bind fun _ w' _ h' => rule.finished w' h') (rule.rejected w h)⟩
  | wu8 len => exact ⟨semWu8 len, fun _ => rfl, fun opv w h => rule.write_checked (rule.wBits8_writes len) h _⟩
  | wu16 len => exact ⟨semWu16 len, fun _ => rfl, fun opv w h => rule.write_checked (rule.wU16_writes len) h _⟩
  | wu32 len => exact ⟨semWu32 len, fun _ => rfl, fun opv w h => rule.write_checked (rule.wU32_writes len) h _⟩
  | ws32 len =>
    exact ⟨semWs32 len, fun _ => rfl, fun opv w h =>
      .checked (fun _ => rule.write_signed (rule.wU32_writes (len - 1)) h _ _) (rule.rejected w h)⟩
  | wu64 len => exact ⟨semWu64 len, fun _ => rfl, fun opv w h => rule.write_checked (rule.wU64_writes len) h _⟩
  | ws64 len =>
    exact ⟨semWs64 len, fun _ => rfl, fun opv w h =>
      .checked (fun _ => rule.write_signed (rule.wU64_writes (len - 1)) h _ _) (rule.rejected w h)⟩
  | wf32 => exact ⟨semWf32, fun _ => rfl, fun opv w h => rule.write_signed (rule.wU32_writes 31) h _ _⟩
  | wf64 => exact ⟨semWf64, fun _ => rfl, fun opv w h => rule.write_signed (rule.wU64_writes 63) h _ _⟩
  | wlpb scale range => exact ⟨semWlpb scale range, fun _ => rfl, fun opv w h => rule.semWlpb_ends scale range opv h⟩
  | walign => exact ⟨semWalign, fun _ => rfl, fun opv w h => rule.semWalign_ends opv h⟩
  | wclose => exact ⟨fun _ => semWclose, fun _ => rfl, fun _ w h => rule.semWclose_ends rfl h⟩
  | wcnt => exact absurd rfl ne
  | _ => simp [Instr.onWriter, opcodeOf] at unit

/-- What a BW command does to the machine: it answers and changes no unit, or it leaves BW as `X` says. -/
theorem exec_cases (unit : i.onWriter = true) {s t : State} (h : exec i s = .next t)
    (start : s.bw.refuses = false → P s.bw) :
    (∃ st v, t = s.respond st v) ∨ (∃ v w, X.done w ∧ t = (s.setBw w).respond .ok v) ∨
      (∃ e w, X.raised e w ∧ t = (s.setBw w).takeError .bw e) ∨ (∃ w, X.hung w ∧ t = (s.setBw w).hang .bw) := by
  by_cases counter : i = .wcnt
  · subst counter
    exact .inl ⟨_, _, (runCounter_cases h).2⟩
  · obtain ⟨sem, exec_eq, ends⟩ := rule.exec_sem unit counter
    rw [exec_eq] at h
    obtain ⟨-, rfl⟩ | ⟨accepts, cases⟩ := runWriter_cases h
    · exact .inl ⟨_, _, rfl⟩
    · have ends := ends s.opv s.bw (start accepts)
      obtain ⟨v, w, eq, rfl⟩ | ⟨e, w, eq, rfl⟩ | ⟨w, eq, rfl⟩ := cases <;> rw [eq] at ends
      · exact .inr (.inl ⟨v, w, ends, rfl⟩)
      · exact .inr (.inr (.inl ⟨e, w, ends, rfl⟩))
      · exact .inr (.inr (.inr ⟨w, ends, rfl⟩))

end WriterRule

end Sys2Proof.Machine
end

section
/-!
PROOF. What a command keeps of its unit: the counter does not fall, the history grows at its end, and the earlier histories,
the element buffer and `CLOSED` stay, but for what RLPB stores and what a close closes.
-/
namespace Sys2Proof.Machine

/-- `P` at every end of a command. -/
def Leaves.always {σ : Type} (P : σ → Prop) : Leaves σ := { done := P, raised := fun _ => P, hung := P }

/-- `r'` is a BR that command `i` can have made of `r`. -/
structure Reader.ExtendedBy (i : Instr) (r r' : Reader) : Prop where
  count : r.cnt ≤ r'.cnt
  events : r.src.events <+: r'.src.events
  past : r'.src.past = r.src.past
  buffer : (∀ scale range, i ≠ .rlpb scale range) → r'.ebr = r.ebr
  closed : i ≠ .rclose → r'.closed = r.closed

/-- `w'` is a BW that command `i` can have made of `w`. -/
structure Writer.ExtendedBy (i : Instr) (w w' : Writer) : Prop where
  count : w.cnt ≤ w'.cnt
  events : w.snk.events <+: w'.snk.events
  past : w'.snk.past = w.snk.past
  buffer : w'.ebw = w.ebw
  closed : i ≠ .wclose → w'.closed = w.closed

theorem Reader.ExtendedBy.refl (i : Instr) (r : Reader) : r.ExtendedBy i r :=
  ⟨le_rfl, List.prefix_rfl, rfl, fun _ => rfl, fun _ => rfl⟩

theorem Writer.ExtendedBy.refl (i : Instr) (w : Writer) : w.ExtendedBy i w :=
  ⟨le_rfl, List.prefix_rfl, rfl, rfl, fun _ => rfl⟩

/-- A recorded transfer extends the history. -/
theorem isPrefix_record {ε : Type} {xs ys : List ε} (h : xs <+: ys) (e : ε) : xs <+: ys ++ [e] :=
  h.trans (List.prefix_append ys [e])

theorem Reader.ExtendedBy.recorded {i : Instr} {r₀ r : Reader} (h : r₀.ExtendedBy i r) {k : Source} (e : SourceEvent)
    (events : k.events = r.src.events ++ [e]) (past : k.past = r.src.past) : r₀.ExtendedBy i { r with src := k } :=
  ⟨h.count, events ▸ isPrefix_record h.events e, past.trans h.past, h.buffer, h.closed⟩

theorem Writer.ExtendedBy.recorded {i : Instr} {w₀ w : Writer} (h : w₀.ExtendedBy i w) {k : Sink} (e : SinkEvent)
    (events : k.events = w.snk.events ++ [e]) (past : k.past = w.snk.past) : w₀.ExtendedBy i { w with snk := k } :=
  ⟨h.count, events ▸ isPrefix_record h.events e, past.trans h.past, h.buffer, h.closed⟩

theorem Reader.ExtendedBy.rule (i : Instr) (r₀ : Reader) :
    ReaderRule i (r₀.ExtendedBy i) (r₀.ExtendedBy i) (.always (r₀.ExtendedBy i)) where
  weaken _ h := h
  filled r h := by
    unfold rEnsure
    split
    · rw [rRefill_eq]
      simp only
      split
      · exact ⟨Nat.le_succ_of_le h.count, isPrefix_record h.events _, h.past, h.buffer, h.closed⟩
      · exact h.recorded _ rfl rfl
      · exact h.recorded _ rfl rfl
      · exact h.recorded _ rfl rfl
    · exact h
  taken _ h := ⟨h.count, h.events, h.past, h.buffer, h.closed⟩
  stored scale range hi _ _ _ _ h := ⟨h.count, h.events, h.past, fun other => absurd hi (other scale range), h.closed⟩
  rejected _ h := h
  closes hi r h _ := by
    rw [rCloseChannel_eq]
    simp only
    split
    · exact ⟨h.count, isPrefix_record h.events _, h.past, h.buffer, fun other => absurd hi other⟩
    · exact h.recorded _ rfl rfl
    · exact h.recorded _ rfl rfl
  finished _ h := h

theorem Writer.ExtendedBy.rule (i : Instr) (w₀ : Writer) :
    WriterRule i (w₀.ExtendedBy i) (w₀.ExtendedBy i) (.always (w₀.ExtendedBy i)) where
  weaken _ h := h
  put _ _ h := ⟨h.count, h.events, h.past, h.buffer, h.closed⟩
  flushed w h := by
    unfold wFlushIfFull
    split
    · rw [wFlush_eq]
      simp only
      split
      · exact ⟨Nat.le_succ_of_le h.count, isPrefix_record h.events _, h.past, h.buffer, h.closed⟩
      · exact h.recorded _ rfl rfl
      · exact h.recorded _ rfl rfl
    · exact h
  fast v w h _ := by
    rw [wFastPath_eq]
    simp only
    split
    · exact ⟨Nat.le_succ_of_le h.count, isPrefix_record h.events _, h.past, h.buffer, h.closed⟩
    · exact h.recorded _ rfl rfl
    · exact h.recorded _ rfl rfl
  rejected _ h := h
  closes hi w h _ := by
    rw [wCloseChannel_eq]
    simp only
    split
    · exact ⟨h.count, isPrefix_record h.events _, h.past, h.buffer, fun other => absurd hi other⟩
    · exact h.recorded _ rfl rfl
    · exact h.recorded _ rfl rfl
  finished _ h := h

/-- What a command changes beside its units: the response, and the mark of an unfinished command if it has none. -/
structure State.AnsweredBy (s t : State) : Prop where
  cmd : t.cmd = s.cmd
  opv : t.opv = s.opv
  host : t.host = s.host
  bufferByte : t.bufferByte = s.bufferByte
  hung : t.response ≠ none → t.hung = s.hung

/-- Every command extends its unit, leaves the other one as it is and keeps the rest of the machine. -/
theorem exec_extends {i : Instr} {s t : State} (h : exec i s = .next t) :
    s.br.ExtendedBy i t.br ∧ s.bw.ExtendedBy i t.bw ∧ s.AnsweredBy t := by
  cases unit : i.onWriter with
  | false =>
    have other : s.bw.ExtendedBy i t.bw := by
      rw [(exec_reader_independent unit h).1]
      exact .refl i s.bw
    obtain ⟨st, v, rfl⟩ | ⟨v, r, ends, rfl⟩ | ⟨e, r, ends, rfl⟩ | ⟨r, ends, rfl⟩ :=
      (Reader.ExtendedBy.rule i s.br).exec_cases unit h fun _ => .refl i s.br
    · exact ⟨.refl i s.br, other, rfl, rfl, rfl, rfl, fun _ => rfl⟩
    · exact ⟨ends, other, rfl, rfl, rfl, rfl, fun _ => rfl⟩
    · exact ⟨⟨ends.count, ends.events, ends.past, ends.buffer, ends.closed⟩, other,
        rfl, rfl, rfl, rfl, fun _ => rfl⟩
    · exact ⟨ends, other, rfl, rfl, rfl, rfl, fun answered => absurd rfl answered⟩
  | true =>
    have other : s.br.ExtendedBy i t.br := by
      rw [(exec_writer_independent unit h).1]
      exact .refl i s.br
    obtain ⟨st, v, rfl⟩ | ⟨v, w, ends, rfl⟩ | ⟨e, w, ends, rfl⟩ | ⟨w, ends, rfl⟩ :=
      (Writer.ExtendedBy.rule i s.bw).exec_cases unit h fun _ => .refl i s.bw
    · exact ⟨other, .refl i s.bw, rfl, rfl, rfl, rfl, fun _ => rfl⟩
    · exact ⟨other, ends, rfl, rfl, rfl, rfl, fun _ => rfl⟩
    · exact ⟨other, ⟨ends.count, ends.events, ends.past, ends.buffer, ends.closed⟩,
        rfl, rfl, rfl, rfl, fun _ => rfl⟩
    · exact ⟨other, ends, rfl, rfl, rfl, rfl, fun answered => absurd rfl answered⟩

/-- Settles O39: the frame of every command, from what the two wrappers change and what no micro-operation writes. -/
theorem commandsKeepTheRestOfTheMachine : Obligations.CommandsKeepTheRestOfTheMachine := by
  unfold Obligations.CommandsKeepTheRestOfTheMachine
  intro i s t h
  obtain ⟨reader, writer, rest⟩ := exec_extends h
  exact ⟨rest.cmd, rest.opv, rest.host, rest.bufferByte, writer.buffer, reader.buffer, reader.past, writer.past,
    rest.hung⟩

/-- Settles O40: each refill, flush and close adds one transfer to the history, and the counter is only ever incremented. -/
theorem countersAndHistoriesOnlyGrow : Obligations.CountersAndHistoriesOnlyGrow := by
  unfold Obligations.CountersAndHistoriesOnlyGrow
  intro i s t h
  obtain ⟨reader, writer, -⟩ := exec_extends h
  exact ⟨reader.count, writer.count, reader.events, writer.events, reader.closed, writer.closed⟩

end Sys2Proof.Machine
end

section
/-!
PROOF. The invariant of the machine (R20 to R23, R63, R294, R323, R334). `Reader.Live` and `Writer.Live` say what holds of
a unit in the middle of a command: it has no error and no close, and the invariant holds but for the cursor, which stands at
0 between a refill and the first flag taken, and at 8 between the last flag put and the flush.
-/
namespace Sys2Proof.Machine

/-! ### Histories -/

@[simp] theorem pulledBytes_append (xs ys : List SourceEvent) :
    pulledBytes (xs ++ ys) = pulledBytes xs ++ pulledBytes ys := by simp [pulledBytes]

@[simp] theorem sourceCloses_append (xs ys : List SourceEvent) :
    sourceCloses (xs ++ ys) = sourceCloses xs + sourceCloses ys := by simp [sourceCloses]

@[simp] theorem sinkCloses_append (xs ys : List SinkEvent) :
    sinkCloses (xs ++ ys) = sinkCloses xs + sinkCloses ys := by simp [sinkCloses]

@[simp] theorem pulledBytes_pull_byte (b : Byte) : pulledBytes [.pull (.byte b)] = [b] := rfl
@[simp] theorem pulledBytes_close (a : Ack) : pulledBytes [.close a] = [] := rfl
@[simp] theorem sourceCloses_pull (a : PullAnswer) : sourceCloses [.pull a] = 0 := rfl
@[simp] theorem sourceCloses_close (a : Ack) : sourceCloses [.close a] = 1 := rfl
@[simp] theorem pushedBytes_push_ok (b : Byte) : pushedBytes [.push b .ok] = [b] := rfl
@[simp] theorem pushedBytes_close (a : Ack) : pushedBytes [.close a] = [] := rfl
@[simp] theorem sinkCloses_push (b : Byte) (a : Ack) : sinkCloses [.push b a] = 0 := rfl
@[simp] theorem sinkCloses_close (a : Ack) : sinkCloses [.close a] = 1 := rfl

/-! ### BR in the middle of a command -/

/-- What holds of BR in the middle of a command. -/
structure Reader.Live (r : Reader) : Prop where
  err : r.err = none
  closed : r.closed = false
  count : r.cnt = (pulledBytes r.src.events).length
  window : ∀ b, (pulledBytes r.src.events).getLast? = some b → r.win = flagsOf b
  untouched : pulledBytes r.src.events = [] → r.cur.val = 8
  buffer : Memory.wf r.ebr
  noClose : sourceCloses r.src.events = 0

/-- How a command leaves BR: with the invariant, once the error of a raise is recorded, and waiting if it hangs. -/
def Reader.leaves : Leaves Reader where
  done r := r.Inv false
  raised e r := { r with err := some e.kind }.Inv false
  hung r := r.Inv true ∧ ∃ e, r.src.events.getLast? = some e ∧ e.answered = false

theorem Reader.Inv.live {r : Reader} (h : r.Inv false) (accepts : r.refuses = false) : r.Live := by
  obtain ⟨err, closed⟩ := (Reader.refuses_eq_false r).1 accepts
  have noClose : sourceCloses r.src.events = 0 := by simpa [accepts] using h.closeEnds
  exact ⟨err, closed, h.count, h.window, h.untouched, h.buffer, noClose⟩

/-- Whatever the error recorded. -/
theorem Reader.Live.inv {r : Reader} (h : r.Live) (cursor : 1 ≤ r.cur.val) (err : Option ErrorKind) (hung : Bool) :
    { r with err := err }.Inv hung where
  cursor := cursor
  count := h.count
  window := h.window
  untouched := h.untouched
  buffer := h.buffer
  clean closed := by simp [h.closed] at closed
  oneClose := h.noClose.trans_le (Nat.zero_le 1)
  closeEnds := .inl h.noClose

/-- A pull that brings no byte ends the command, whatever error is recorded. -/
theorem Reader.Live.inv_of_noByte {r : Reader} (h : r.Live) (cursor : 1 ≤ r.cur.val) {k : Source} {a : PullAnswer}
    (events : k.events = r.src.events ++ [.pull a]) (noByte : pulledBytes [.pull a] = []) {err : Option ErrorKind}
    {hung : Bool} : { r with err := err, src := k }.Inv hung :=
  have live : { r with src := k }.Live :=
    { err := h.err
      closed := h.closed
      count := by simp [events, noByte, h.count]
      window := fun b => by simpa [events, noByte] using h.window b
      untouched := by simpa [events, noByte] using h.untouched
      buffer := h.buffer
      noClose := by simp [events, h.noClose] }
  live.inv cursor err hung

/-- A refill. -/
theorem Reader.Live.refilled {r : Reader} (h : r.Live) {k : Source} {b : Byte}
    (events : k.events = r.src.events ++ [.pull (.byte b)]) :
    { r with cnt := r.cnt + 1, win := flagsOf b, cur := 0, src := k }.Live where
  err := h.err
  closed := h.closed
  count := by simp [events, h.count]
  window := by simp [events]
  untouched := by simp [events]
  buffer := h.buffer
  noClose := by simp [events, h.noClose]

/-- The close of the channel: only with `Ok` and no error is the unit closed, and in every case it has a reason to accept
no further command. -/
theorem Reader.Live.closing {r : Reader} (h : r.Live) (empty : r.cur.val = 8) {k : Source} {a : Ack}
    (events : k.events = r.src.events ++ [.close a]) {err : Option ErrorKind} {closed hung : Bool}
    (clean : closed = true → err = none) (ends : poisonedOrClosed err closed = true ∨ hung = true) :
    { r with err := err, closed := closed, src := k }.Inv hung where
  cursor := by simp [empty]
  count := by simp [events, h.count]
  window b := by simpa [events] using h.window b
  untouched _ := empty
  buffer := h.buffer
  clean isClosed := ⟨clean isClosed, empty⟩
  oneClose := by simp [events, h.noClose]
  closeEnds := .inr ends

/-- Between its micro-operations a command of BR has taken at least one flag of the window. -/
theorem Reader.Live.rule (i : Instr) : ReaderRule i (fun r => 1 ≤ r.cur.val ∧ r.Live) Reader.Live Reader.leaves where
  weaken _ h := h.2
  filled r h := by
    unfold rEnsure
    split
    · rename_i empty
      have cursor : 1 ≤ r.cur.val := by omega
      rw [rRefill_eq]
      simp only
      split <;> rename_i answer <;> rw [answer]
      · exact h.refilled rfl
      · exact h.inv_of_noByte cursor rfl rfl
      · exact h.inv_of_noByte cursor rfl rfl
      · exact ⟨h.inv_of_noByte cursor rfl rfl, _, List.getLast?_concat, rfl⟩
    · exact h
  taken r h := by
    refine ⟨nextCur_pos r.cur, h.err, h.closed, h.count, h.window, fun nothing => ?_, h.buffer, h.noClose⟩
    simp [nextCur, h.untouched nothing]
  stored _ _ _ r k b hk h :=
    ⟨h.1, h.2.err, h.2.closed, h.2.count, h.2.window, h.2.untouched, memWrite_wf r.ebr k b h.2.buffer hk, h.2.noClose⟩
  rejected _ h := h.2.inv h.1 _ false
  closes _ r h empty := by
    rw [rCloseChannel_eq]
    simp only
    split <;> rename_i answer <;> rw [answer]
    · exact h.2.closing empty rfl (fun _ => h.2.err) (.inl (by simp [poisonedOrClosed]))
    · exact h.2.closing empty rfl (fun closed => absurd closed (by simp [h.2.closed])) (.inl rfl)
    · exact ⟨h.2.closing empty rfl (fun _ => h.2.err) (.inr rfl), _, List.getLast?_concat, rfl⟩
  finished r h := h.2.inv h.1 r.err false

/-! ### BW in the middle of a command -/

/-- What holds of BW in the middle of a command. -/
structure Writer.Live (w : Writer) : Prop where
  err : w.err = none
  closed : w.closed = false
  count : w.cnt = (pushedBytes w.snk.events).length
  buffer : Memory.wf w.ebw
  noClose : sinkCloses w.snk.events = 0

/-- How a command leaves BW, as `Reader.leaves`. -/
def Writer.leaves : Leaves Writer where
  done w := w.Inv false
  raised e w := { w with err := some e.kind }.Inv false
  hung w := w.Inv true ∧ ∃ e, w.snk.events.getLast? = some e ∧ e.answered = false

theorem Writer.Inv.live {w : Writer} (h : w.Inv false) (accepts : w.refuses = false) : w.cur.val < 8 ∧ w.Live := by
  obtain ⟨err, closed⟩ := (Writer.refuses_eq_false w).1 accepts
  have cursor : w.cur.val < 8 := by simpa [err] using h.cursor
  have noClose : sinkCloses w.snk.events = 0 := by simpa [accepts] using h.closeEnds
  exact ⟨cursor, err, closed, h.count, h.buffer, noClose⟩

/-- Whatever the error recorded, if it is the reason for a full window. -/
theorem Writer.Live.inv {w : Writer} (h : w.Live) {err : Option ErrorKind} {hung : Bool}
    (cursor : w.cur.val < 8 ∨ err = some .channelIOFailure ∨ hung = true) : { w with err := err }.Inv hung where
  cursor := cursor
  count := h.count
  buffer := h.buffer
  clean closed := by simp [h.closed] at closed
  oneClose := h.noClose.trans_le (Nat.zero_le 1)
  closeEnds := .inl h.noClose

/-- A push that the sink does not take ends the command, and may leave the window full. -/
theorem Writer.Live.inv_of_noByte {w : Writer} (h : w.Live) {k : Sink} {b : Byte} {a : Ack}
    (events : k.events = w.snk.events ++ [.push b a]) (noByte : pushedBytes [.push b a] = []) {err : Option ErrorKind}
    {hung : Bool} (reason : err = some .channelIOFailure ∨ hung = true) : { w with err := err, snk := k }.Inv hung :=
  have live : { w with snk := k }.Live :=
    { err := h.err
      closed := h.closed
      count := by simp [events, noByte, h.count]
      buffer := h.buffer
      noClose := by simp [events, h.noClose] }
  live.inv (.inr reason)

/-- A push that the sink takes, wherever it leaves the cursor. -/
theorem Writer.Live.pushed {w : Writer} (h : w.Live) {k : Sink} {b : Byte}
    (events : k.events = w.snk.events ++ [.push b .ok]) (cur : Fin 9) :
    { w with cnt := w.cnt + 1, cur := cur, snk := k }.Live where
  err := h.err
  closed := h.closed
  count := by simp [events, h.count]
  buffer := h.buffer
  noClose := by simp [events, h.noClose]

/-- The close of the channel, as `Reader.Live.closing`. -/
theorem Writer.Live.closing {w : Writer} (h : w.Live) (empty : w.cur.val = 0) {k : Sink} {a : Ack}
    (events : k.events = w.snk.events ++ [.close a]) {err : Option ErrorKind} {closed hung : Bool}
    (clean : closed = true → err = none) (ends : poisonedOrClosed err closed = true ∨ hung = true) :
    { w with err := err, closed := closed, snk := k }.Inv hung where
  cursor := .inl (by simp [empty])
  count := by simp [events, h.count]
  buffer := h.buffer
  clean isClosed := ⟨clean isClosed, empty⟩
  oneClose := by simp [events, h.noClose]
  closeEnds := .inr ends

/-- Between its micro-operations a command of BW leaves no full window. -/
theorem Writer.Live.rule (i : Instr) : WriterRule i (fun w => w.cur.val < 8 ∧ w.Live) Writer.Live Writer.leaves where
  weaken _ h := h.2
  put _ _ h := ⟨h.err, h.closed, h.count, h.buffer, h.noClose⟩
  flushed w h := by
    unfold wFlushIfFull
    split
    · rw [wFlush_eq]
      simp only
      split <;> rename_i answer <;> rw [answer]
      · exact ⟨Nat.zero_lt_succ 7, h.pushed rfl 0⟩
      · exact h.inv_of_noByte rfl rfl (.inl rfl)
      · exact ⟨h.inv_of_noByte rfl rfl (.inr rfl), _, List.getLast?_concat, rfl⟩
    · exact ⟨by omega, h⟩
  fast v w h _ := by
    rw [wFastPath_eq]
    simp only
    split <;> rename_i answer <;> rw [answer]
    · exact ⟨h.1, h.2.pushed rfl w.cur⟩
    · exact h.2.inv_of_noByte rfl rfl (.inl rfl)
    · exact ⟨h.2.inv_of_noByte rfl rfl (.inr rfl), _, List.getLast?_concat, rfl⟩
  rejected _ h := h.2.inv (.inl h.1)
  closes _ w h empty := by
    rw [wCloseChannel_eq]
    simp only
    split <;> rename_i answer <;> rw [answer]
    · exact h.2.closing empty rfl (fun _ => h.2.err) (.inl (by simp [poisonedOrClosed]))
    · exact h.2.closing empty rfl (fun closed => absurd closed (by simp [h.2.closed])) (.inl rfl)
    · exact ⟨h.2.closing empty rfl (fun _ => h.2.err) (.inr rfl), _, List.getLast?_concat, rfl⟩
  finished _ h := h.2.inv (.inl h.1)

/-! ### The machine -/

theorem Reader.fresh_inv {k : Source} (newLife : k.events = []) (hung : Bool) : (Reader.fresh k).Inv hung := by
  constructor <;> simp [newLife, pulledBytes, sourceCloses, Memory.wf]

theorem Writer.fresh_inv {k : Sink} (newLife : k.events = []) (hung : Bool) : (Writer.fresh k).Inv hung := by
  constructor <;> simp [newLife, pushedBytes, sinkCloses, Memory.wf]

/-- Without an unfinished command the invariant is that of the units. -/
theorem State.Inv.of_idle {s : State} (idle : s.hung = none) (reader : s.br.Inv false) (writer : s.bw.Inv false) :
    s.Inv where
  reader := by simpa [idle] using reader
  writer := by simpa [idle] using writer
  silent := by simp [idle]
  waits := by simp [idle]

theorem State.Inv.units {s : State} (h : s.Inv) (idle : s.hung = none) : s.br.Inv false ∧ s.bw.Inv false := by
  have reader := h.reader
  have writer := h.writer
  simp only [idle, reduceCtorEq, decide_false] at reader writer
  exact ⟨reader, writer⟩

theorem exec_keepsInv {i : Instr} {s t : State} (inv : s.Inv) (idle : s.hung = none) (h : exec i s = .next t) :
    t.Inv := by
  obtain ⟨reader, writer⟩ := inv.units idle
  cases unit : i.onWriter with
  | false =>
    obtain ⟨st, v, rfl⟩ | ⟨v, r, ends, rfl⟩ | ⟨e, r, ends, rfl⟩ | ⟨r, ends, rfl⟩ :=
      (Reader.Live.rule i).exec_cases unit h fun accepts => ⟨reader.cursor, reader.live accepts⟩
    · exact .of_idle idle reader writer
    · exact .of_idle idle ends writer
    · exact .of_idle idle ends writer
    · exact ⟨ends.1, writer, fun _ => rfl, fun u eq => by cases eq; exact ends.2⟩
  | true =>
    obtain ⟨st, v, rfl⟩ | ⟨v, w, ends, rfl⟩ | ⟨e, w, ends, rfl⟩ | ⟨w, ends, rfl⟩ :=
      (Writer.Live.rule i).exec_cases unit h fun accepts => writer.live accepts
    · exact .of_idle idle reader writer
    · exact .of_idle idle reader ends
    · exact .of_idle idle reader ends
    · exact ⟨reader, ends.1, fun _ => rfl, fun u eq => by cases eq; exact ends.2⟩

theorem rejectIllegal_keepsInv {cmd : Word32} {s t : State} (inv : s.Inv) (idle : s.hung = none)
    (h : rejectIllegal cmd s = .next t) : t.Inv := by
  obtain ⟨reader, writer⟩ := inv.units idle
  obtain ⟨-, rfl⟩ | ⟨accepts, rfl⟩ := rejectIllegal_cases h
  · exact .of_idle idle reader writer
  · cases unit : unitOf cmd with
    | br =>
      rw [unit] at accepts
      exact .of_idle idle ((reader.live accepts).inv reader.cursor _ false) writer
    | bw =>
      rw [unit] at accepts
      obtain ⟨cursor, live⟩ := writer.live accepts
      exact .of_idle idle reader (live.inv (.inl cursor))

/-- An abandoned command is that of unit `u`, and the other unit goes on waiting (R320). -/
theorem State.abandon_hung_eq_some (s : State) (u v : UnitId) :
    (s.abandon u).hung = some v ↔ s.hung = some v ∧ v ≠ u := by
  rw [State.abandon_hung]
  split
  · rename_i own
    simp [own, eq_comm]
  · exact ⟨fun waits => ⟨waits, fun own => ‹¬ _› (own ▸ waits)⟩, And.left⟩

theorem State.Inv.resetReader {s : State} (h : s.Inv) : s.resetReader.Inv := by
  have hung : ∀ u, s.resetReader.hung = some u ↔ s.hung = some u ∧ u ≠ .br := State.abandon_hung_eq_some _ .br
  refine ⟨?_, ?_, fun waiting => ?_, fun u waiting => ?_⟩
  · rw [State.resetReader_br]
    exact Reader.fresh_inv rfl _
  · simpa [hung, -State.resetReader_hung] using h.writer
  · obtain ⟨u, eq⟩ := Option.isSome_iff_exists.1 waiting
    rw [State.resetReader_response]
    exact h.silent (Option.isSome_of_eq_some ((hung u).1 eq).1)
  · cases u with
    | br => exact absurd rfl ((hung .br).1 waiting).2
    | bw => simpa only [State.waitsFor, State.resetReader_bw] using h.waits .bw ((hung .bw).1 waiting).1

theorem State.Inv.resetWriter {s : State} (h : s.Inv) : s.resetWriter.Inv := by
  have hung : ∀ u, s.resetWriter.hung = some u ↔ s.hung = some u ∧ u ≠ .bw := State.abandon_hung_eq_some _ .bw
  refine ⟨?_, ?_, fun waiting => ?_, fun u waiting => ?_⟩
  · simpa [hung, -State.resetWriter_hung] using h.reader
  · rw [State.resetWriter_bw]
    exact Writer.fresh_inv rfl _
  · obtain ⟨u, eq⟩ := Option.isSome_iff_exists.1 waiting
    rw [State.resetWriter_response]
    exact h.silent (Option.isSome_of_eq_some ((hung u).1 eq).1)
  · cases u with
    | br => simpa only [State.waitsFor, State.resetWriter_br] using h.waits .br ((hung .br).1 waiting).1
    | bw => exact absurd rfl ((hung .bw).1 waiting).2

/-- The invariant is about the past of a channel, not about its coming answers. -/
theorem State.Inv.provideSource {s : State} (h : s.Inv) (xs : List PullAnswer) (ys : List Ack) :
    (s.provideSource xs ys).Inv := by
  obtain ⟨⟨cursor, count, window, untouched, buffer, clean, oneClose, closeEnds⟩, writer, silent, waits⟩ := h
  exact ⟨⟨cursor, count, window, untouched, buffer, clean, oneClose, closeEnds⟩, writer, silent, waits⟩

theorem State.Inv.provideSink {s : State} (h : s.Inv) (xs ys : List Ack) : (s.provideSink xs ys).Inv := by
  obtain ⟨reader, ⟨cursor, count, buffer, clean, oneClose, closeEnds⟩, silent, waits⟩ := h
  exact ⟨reader, ⟨cursor, count, buffer, clean, oneClose, closeEnds⟩, silent, waits⟩

/-- A host's write of EBW inside the buffer (R68). -/
theorem State.Inv.writeEbw {s : State} (h : s.Inv) {k : Nat} (hk : k < Config.ebSize) (b : Byte) :
    (s.setBw { s.bw with ebw := memWrite s.bw.ebw k b }).Inv := by
  obtain ⟨reader, ⟨cursor, count, buffer, clean, oneClose, closeEnds⟩, silent, waits⟩ := h
  exact ⟨reader, ⟨cursor, count, memWrite_wf _ k b buffer hk, clean, oneClose, closeEnds⟩, silent, waits⟩

theorem hostControl_keepsInv {c : HostControl} {s t : State} (inv : s.Inv) (h : hostControl c s = .next t) : t.Inv := by
  cases c with
  | resetReader =>
    cases h
    exact inv.resetReader
  | resetWriter =>
    cases h
    exact inv.resetWriter
  | bindReader answers closeAnswers =>
    cases h
    exact (inv.provideSource answers closeAnswers).resetReader
  | bindWriter pushAnswers closeAnswers =>
    cases h
    exact (inv.provideSink pushAnswers closeAnswers).resetWriter
  | readEbr k | readEbw k =>
    simp only [hostControl] at h
    split at h <;> cases h
    exact ⟨inv.reader, inv.writer, inv.silent, inv.waits⟩
  | writeEbw k b =>
    simp only [hostControl] at h
    split at h <;> cases h
    exact inv.writeEbw ‹_› b

/-- Settles O49: both units are fresh and no command is unfinished. -/
theorem resetMeetsTheInvariant : Obligations.ResetMeetsTheInvariant :=
  .of_idle rfl (Reader.fresh_inv rfl false) (Writer.fresh_inv rfl false)

/-- Settles O50: commands run only with no command unfinished and keep the invariant by the rules of their unit; of the
host's other actions the resets start a fresh life, and a write of EBW keeps its canonical form. -/
theorem everyStepKeepsTheInvariant : Obligations.EveryStepKeepsTheInvariant := by
  unfold Obligations.EveryStepKeepsTheInvariant
  intro s t inv h
  obtain rfl | ⟨a, s', taken, action⟩ := step_cases h
  · exact inv
  · obtain ⟨rest, -, rfl, waiting⟩ := nextAction_cases taken
    have listInv : { s with host := rest }.Inv := ⟨inv.reader, inv.writer, inv.silent, inv.waits⟩
    obtain ⟨cmd, opv, rfl, run⟩ | ⟨c, rfl, run⟩ := action
    · have idle : s.hung = none := by simpa [HostAction.isReset] using waiting
      have presented : ({ s with host := rest }.present cmd opv).Inv :=
        ⟨inv.reader, inv.writer, inv.silent, inv.waits⟩
      obtain ⟨i, -, run⟩ | ⟨-, run⟩ := run
      · exact exec_keepsInv presented idle run
      · exact rejectIllegal_keepsInv presented idle run
    · exact hostControl_keepsInv listInv run

end Sys2Proof.Machine
end

section
/-!
PROOF. A step with no command unfinished (R25, R100, R336), and the machine after reset (R31).
-/
namespace Sys2Proof.Machine

/-- With no command unfinished the host takes the action at the head of its list, whatever it is. -/
theorem nextAction_of_idle {s : State} {a : HostAction} {rest : List HostAction} (head : s.host = a :: rest)
    (idle : s.hung = none) : nextAction s = some (a, { s with host := rest }) := by
  simp [nextAction, head, idle]

/-- A command at the head of the list is sampled and run. -/
theorem step_of_command {s : State} {cmd : Word32} {opv : Word64} {rest : List HostAction}
    (head : s.host = .command cmd opv :: rest) (idle : s.hung = none) :
    step s = runCommand cmd ({ s with host := rest }.present cmd opv) := by
  rw [step, nextAction_of_idle head idle]

/-- Another action at the head of the list is carried out. -/
theorem step_of_control {s : State} {c : HostControl} {rest : List HostAction} (head : s.host = .control c :: rest)
    (idle : s.hung = none) : step s = hostControl c { s with host := rest } := by
  rw [step, nextAction_of_idle head idle]

theorem runCommand_of_ok {cmd : Word32} {i : Instr} (legal : decode cmd = .ok i) (s : State) :
    runCommand cmd s = exec i s := by
  rw [runCommand, legal]

theorem runCommand_of_error {cmd : Word32} {e : DecodeError} (illegal : decode cmd = .error e) (s : State) :
    runCommand cmd s = rejectIllegal cmd s := by
  rw [runCommand, illegal]

/-- Settles O6: the host's list is read at its head, and the word there is decoded. -/
theorem stepRunsTheDecodedCommand : Obligations.StepRunsTheDecodedCommand := by
  unfold Obligations.StepRunsTheDecodedCommand
  intro s cmd opv rest head idle
  have run := step_of_command head idle
  exact ⟨run, fun i legal => run.trans (runCommand_of_ok legal _),
    fun e illegal => run.trans (runCommand_of_error illegal _)⟩

/-- Settles O9: both units of `State.reset` are fresh ones. -/
theorem resetLeavesTheSpecValues : Obligations.ResetLeavesTheSpecValues :=
  ⟨rfl, rfl, rfl, rfl, rfl, rfl, rfl, rfl, rfl, rfl, rfl, rfl⟩

/-- Settles O48: each access is the host's one action, guarded by the size of the buffer. -/
theorem hostBufferAccesses : Obligations.HostBufferAccesses := by
  unfold Obligations.HostBufferAccesses
  intro s rest i b idle
  exact ⟨fun head => step_of_control head idle, fun head => step_of_control head idle,
    fun head => step_of_control head idle⟩

end Sys2Proof.Machine
end

section
/-!
PROOF. Reads of mixed widths (R65, R141), and the element buffers as functions from indexes to bytes (R11, R68).
-/
namespace Sys2Proof.Machine

/-! ### Mixed widths -/

theorem rGetBits_succ (n : Nat) (r : Reader) :
    rGetBits (n + 1) r = (rBit r).bind fun b r' => rGetBitsFrom n b.toNat r' := by
  simp [rGetBits, rGetBitsFrom]

/-- What is already gathered stays in front of the `n` bits that are read next. -/
theorem rGetBitsFrom_eq_bind_rGetBits (n v : Nat) (r : Reader) :
    rGetBitsFrom n v r = (rGetBits n r).bind fun low r' => .done (v * 2 ^ n + low) r' := by
  induction n generalizing v r with
  | zero => simp [rGetBits, rGetBitsFrom]
  | succ n ih =>
    have weight (b low : Nat) : (2 * v + b) * 2 ^ n + low = v * 2 ^ (n + 1) + (b * 2 ^ n + low) := by ring
    simp [rGetBits_succ, rGetBitsFrom, ih, weight]

/-- Settles O44: the read of `m + n` bits goes on from the first `m` bits, and these keep their place in front. -/
theorem mixedWidthReadsSeeTheSameBits : Obligations.MixedWidthReadsSeeTheSameBits := by
  unfold Obligations.MixedWidthReadsSeeTheSameBits
  intro m n r
  calc rGetBits (m + n) r
    _ = (rGetBits m r).bind (rGetBitsFrom n) := rGetBitsFrom_add m n 0 r
    _ = (rGetBits m r).bind fun high r' => (rGetBits n r').bind fun low r'' => .done (high * 2 ^ n + low) r'' := by
      simp only [← rGetBitsFrom_eq_bind_rGetBits]

/-! ### Element buffers -/

/-- Read after write (R11, R68), in canonical form or not. -/
theorem memPeek_memWrite (m : Memory) (i j : Nat) (b : Byte) :
    memPeek (memWrite m i b) j = if j = i then some b else memPeek m j := by
  induction m with
  | nil => simp [memWrite, memPeek, eq_comm]
  | cons c m ih =>
    obtain ⟨a, v⟩ := c
    unfold memWrite
    split
    · simp [memPeek, eq_comm]
    · split
      · rename_i eq
        subst eq
        by_cases h : i = j <;> simp [memPeek, h, eq_comm]
      · rename_i ne
        by_cases h : a = j
        · subst h
          simp [memPeek, Ne.symm ne]
        · simp [memPeek, h, ih]

/-- The cells of a buffer with rising indexes are its written entries. -/
theorem mem_iff_memPeek {m : Memory} (sorted : (m.map Prod.fst).Pairwise (· < ·)) (i : Nat) (b : Byte) :
    (i, b) ∈ m ↔ memPeek m i = some b := by
  induction m with
  | nil => simp [memPeek]
  | cons c m ih =>
    obtain ⟨a, v⟩ := c
    obtain ⟨below, sorted⟩ := List.pairwise_cons.1 sorted
    by_cases h : a = i
    · subst h
      have once : (a, b) ∉ m := fun mem => lt_irrefl a (below a (List.mem_map_of_mem mem))
      simp [memPeek, once, eq_comm]
    · simp [memPeek, h, Ne.symm h, ih sorted]

/-- Two lists of cells with rising indexes and the same entries have the same cells in the same order. -/
theorem Memory.ext_of_wf {m m' : Memory} (h : m.wf) (h' : m'.wf) (entries : ∀ i, memPeek m i = memPeek m' i) : m = m' := by
  have cells : ∀ c : Host.Cell, c ∈ m ↔ c ∈ m' := fun (i, b) => by
    rw [mem_iff_memPeek h.1, mem_iff_memPeek h'.1, entries]
  have : Std.Irrefl fun c d : Host.Cell => c.1 < d.1 := ⟨fun c => lt_irrefl c.1⟩
  exact (List.pairwise_map.1 h.1).eq_of_mem_iff (List.pairwise_map.1 h'.1) cells

/-- Settles O47: read after write, and the extensionality of canonical buffers. -/
theorem elementBuffersReadBackWhatWasWritten : Obligations.ElementBuffersReadBackWhatWasWritten :=
  ⟨memPeek_memWrite, fun _ _ h h' => Memory.ext_of_wf h h'⟩

end Sys2Proof.Machine
end

section
/-!
PROOF. The encoding (R101 to R107, R111): a command word is its four fields, and the decoder answers with the one instruction
that has them. The rows of the opcode map are compared with a word field by field.
-/
namespace Sys2Proof

/-! ### Words and their fields (R101) -/

/-- A command word is given by its four fields. -/
theorem word_eq_iff_fields (c d : Word32) :
    c = d ↔ fieldOp c = fieldOp d ∧ fieldA c = fieldA d ∧ fieldB c = fieldB d ∧ fieldZ c = fieldZ d := by
  constructor
  · rintro rfl
    exact ⟨rfl, rfl, rfl, rfl⟩
  · rintro ⟨op, a, b, z⟩
    apply BitVec.eq_of_toNat_eq
    simp only [fieldOp, fieldA, fieldB, fieldZ] at op a b z
    omega

theorem fieldOp_lt (c : Word32) : fieldOp c < 256 := by
  have := c.isLt
  simp only [fieldOp]
  omega

theorem fieldA_lt (c : Word32) : fieldA c < 256 := Nat.mod_lt _ (by decide)

theorem fieldB_lt (c : Word32) : fieldB c < 256 := Nat.mod_lt _ (by decide)

theorem fieldZ_lt (c : Word32) : fieldZ c < 256 := Nat.mod_lt _ (by decide)

/-! ### Masking, field by field -/

theorem fieldOp_and (c d : Word32) : fieldOp (c &&& d) = fieldOp c &&& fieldOp d := by
  simp only [fieldOp, BitVec.toNat_and, ← Nat.shiftRight_eq_div_pow, Nat.shiftRight_and_distrib]

theorem fieldA_and (c d : Word32) : fieldA (c &&& d) = fieldA c &&& fieldA d := by
  simp only [fieldA, BitVec.toNat_and, ← Nat.shiftRight_eq_div_pow, Nat.shiftRight_and_distrib]
  exact Nat.and_mod_two_pow (n := 8)

theorem fieldB_and (c d : Word32) : fieldB (c &&& d) = fieldB c &&& fieldB d := by
  simp only [fieldB, BitVec.toNat_and, ← Nat.shiftRight_eq_div_pow, Nat.shiftRight_and_distrib]
  exact Nat.and_mod_two_pow (n := 8)

theorem fieldZ_and (c d : Word32) : fieldZ (c &&& d) = fieldZ c &&& fieldZ d := by
  simp only [fieldZ, BitVec.toNat_and]
  exact Nat.and_mod_two_pow (n := 8)

/-- A mask byte of ones keeps a field. -/
theorem and_255_of_lt {x : Nat} (h : x < 256) : x &&& 255 = x :=
  (Nat.and_two_pow_sub_one_eq_mod x 8).trans (Nat.mod_eq_of_lt h)

/-! ### Instructions and their operands -/

/-- Well-formed is: both operands of the command word fit their fields (R105). -/
theorem Instr.wellFormed_iff (i : Instr) : i.wellFormed = true ↔ operandA i < 256 ∧ operandB i < 256 := by
  cases i <;> simp [Instr.wellFormed, fitsField, operandA, operandB]

/-- The word has the fields of the instruction's encoding (R101, R102, R104). -/
def HasFields (cmd : Word32) (i : Instr) : Prop :=
  fieldOp cmd = opcodeOf i ∧ fieldA cmd = operandA i ∧ fieldB cmd = operandB i ∧ fieldZ cmd = 0

theorem encode_hasFields {i : Instr} (h : i.wellFormed = true) : HasFields (encode i) i :=
  have ⟨ha, hb⟩ := i.wellFormed_iff.1 h
  Laws.EncodingFields.of_operands i ha hb h

/-- A word with the fields of an instruction is its encoding. -/
theorem HasFields.wellFormed_and_encode {cmd : Word32} {i : Instr} (h : HasFields cmd i) :
    i.wellFormed = true ∧ encode i = cmd := by
  obtain ⟨op, a, b, z⟩ := h
  have wf : i.wellFormed = true := i.wellFormed_iff.2 ⟨a ▸ fieldA_lt cmd, b ▸ fieldB_lt cmd⟩
  obtain ⟨op', a', b', z'⟩ := encode_hasFields wf
  exact ⟨wf, (word_eq_iff_fields _ _).2 ⟨op'.trans op.symm, a'.trans a.symm, b'.trans b.symm, z'.trans z.symm⟩⟩

/-! ### The decoder -/

theorem decodeN_eq_ok_iff {cmd : Word32} {i j : Instr} :
    decodeN cmd j = .ok i ↔ j = i ∧ fieldA cmd = 0 ∧ fieldB cmd = 0 ∧ fieldZ cmd = 0 := by
  unfold decodeN
  split_ifs <;> simp_all

theorem decodeL_eq_ok_iff {cmd : Word32} {i : Instr} {make : Nat → Instr} :
    decodeL cmd make = .ok i ↔ make (fieldA cmd) = i ∧ fieldB cmd = 0 ∧ fieldZ cmd = 0 := by
  unfold decodeL
  split_ifs <;> simp_all

theorem decodeSR_eq_ok_iff {cmd : Word32} {i : Instr} {make : Nat → Nat → Instr} :
    decodeSR cmd make = .ok i ↔ make (fieldA cmd) (fieldB cmd) = i ∧ fieldZ cmd = 0 := by
  unfold decodeSR
  split_ifs <;> simp_all

/-- What decodes to an instruction has its fields: the row found by `OP` is the instruction's, and its format takes the
operands from the fields it uses and wants the others to be zero. -/
theorem hasFields_of_decode {cmd : Word32} {i : Instr} (h : decode cmd = .ok i) : HasFields cmd i := by
  unfold decode at h
  split at h
  case h_27 => cases h
  all_goals
    simp only [decodeN_eq_ok_iff, decodeL_eq_ok_iff, decodeSR_eq_ok_iff] at h
    obtain ⟨rfl, unused⟩ := h
    exact ⟨‹_›, by simp [operandA, unused], by simp [operandB, unused], by simp [unused]⟩

/-- A word with the fields of an instruction decodes to it. -/
theorem HasFields.decode_eq {cmd : Word32} {i : Instr} (h : HasFields cmd i) : decode cmd = .ok i := by
  obtain ⟨op, a, b, z⟩ := h
  cases i <;>
    simp [decode, op, opcodeOf, decodeN_eq_ok_iff, decodeL_eq_ok_iff, decodeSR_eq_ok_iff, a, b, z, operandA, operandB]

theorem decode_eq_ok_iff (cmd : Word32) (i : Instr) : decode cmd = .ok i ↔ HasFields cmd i :=
  ⟨hasFields_of_decode, HasFields.decode_eq⟩

theorem decode_encode {i : Instr} (h : i.wellFormed = true) : decode (encode i) = .ok i :=
  (encode_hasFields h).decode_eq

/-- Settles O2: the fields of an encoding are those of its instruction, and a word with these fields decodes to it. -/
theorem decodeOfEncodeIsIdentity : Obligations.DecodeOfEncodeIsIdentity := fun _ => decode_encode

/-- Settles O3: the fields of the word are those of the instruction, and a word is given by its fields. -/
theorem encodeOfDecodeIsIdentity : Obligations.EncodeOfDecodeIsIdentity := fun _ _ h =>
  (hasFields_of_decode h).wellFormed_and_encode

theorem decode_of_unassigned {cmd : Word32}
    (h : fieldOp cmd = 0 ∨ (0x0E ≤ fieldOp cmd ∧ fieldOp cmd ≤ 0x80) ∨ 0x8E ≤ fieldOp cmd) :
    decode cmd = .error .unassignedOpcode := by
  unfold decode
  split
  case h_27 => rfl
  all_goals omega

/-- Settles O5: no row has an unassigned `OP`, and what decodes has the fields of its instruction. -/
theorem illegalWordsAreRejectedByName : Obligations.IllegalWordsAreRejectedByName :=
  ⟨fun _ => decode_of_unassigned, fun _ _ => hasFields_of_decode⟩

/-- Settles O1: each of the nine words is the encoding of the command it stands for. -/
theorem specWordsDecode : Obligations.SpecWordsDecode :=
  ⟨decode_encode (i := .rbool) rfl, decode_encode (i := .rs32 7) rfl, decode_encode (i := .ru64 33) rfl,
    decode_encode (i := .rlpb 4 7) rfl, decode_encode (i := .ralign) rfl, decode_encode (i := .ws32 7) rfl,
    decode_encode (i := .wu64 63) rfl, decode_encode (i := .wlpb 4 7) rfl, decode_encode (i := .wclose) rfl⟩

/-! ### The rows of the opcode map (R104, R106) -/

/-- The instruction of the same row with other operands, where the row's format has them (R102). -/
def Instr.withOperands (i : Instr) (a b : Nat) : Instr :=
  match i with
  | .ru8 _ => .ru8 a
  | .ru16 _ => .ru16 a
  | .ru32 _ => .ru32 a
  | .rs32 _ => .rs32 a
  | .ru64 _ => .ru64 a
  | .rs64 _ => .rs64 a
  | .rlpb _ _ => .rlpb a b
  | .wu8 _ => .wu8 a
  | .wu16 _ => .wu16 a
  | .wu32 _ => .wu32 a
  | .ws32 _ => .ws32 a
  | .wu64 _ => .wu64 a
  | .ws64 _ => .ws64 a
  | .wlpb _ _ => .wlpb a b
  | .rbool | .rf32 | .rf64 | .ralign | .rclose | .rcnt => i
  | .wbool | .wf32 | .wf64 | .walign | .wclose | .wcnt => i

/-- The mask of an instruction's format (R102). -/
def maskOf (i : Instr) : Word32 :=
  match i with
  | .rbool | .rf32 | .rf64 | .ralign | .rclose | .rcnt => 0xFFFFFFFF#32
  | .wbool | .wf32 | .wf64 | .walign | .wclose | .wcnt => 0xFFFFFFFF#32
  | .ru8 _ | .ru16 _ | .ru32 _ | .rs32 _ | .ru64 _ | .rs64 _ => 0xFF00FFFF#32
  | .wu8 _ | .wu16 _ | .wu32 _ | .ws32 _ | .wu64 _ | .ws64 _ => 0xFF00FFFF#32
  | .rlpb _ _ | .wlpb _ _ => 0xFF0000FF#32

/-- The row of an instruction: its match is the encoding with operands 0. -/
def rowOf (i : Instr) : Word32 × Word32 := (encode (i.withOperands 0 0), maskOf i)

/-- The 26 commands in the order of the opcode map, with operands 0. -/
def commands : List Instr :=
  [.rbool, .ru8 0, .ru16 0, .ru32 0, .rs32 0, .ru64 0, .rs64 0, .rf32, .rf64, .rlpb 0 0, .ralign, .rclose, .rcnt,
   .wbool, .wu8 0, .wu16 0, .wu32 0, .ws32 0, .wu64 0, .ws64 0, .wf32, .wf64, .wlpb 0 0, .walign, .wclose, .wcnt]

theorem opcodeRows_eq_map_rowOf : opcodeRows = commands.map rowOf := rfl

theorem withOperands_zero_mem_commands (i : Instr) : i.withOperands 0 0 ∈ commands := by
  cases i <;> simp [Instr.withOperands, commands]

theorem rowOf_withOperands (i : Instr) (a b : Nat) : rowOf (i.withOperands a b) = rowOf i := by
  cases i <;> rfl

/-- The rows of the opcode map are the rows of the instructions. -/
theorem mem_opcodeRows_iff (row : Word32 × Word32) : row ∈ opcodeRows ↔ ∃ i, rowOf i = row := by
  rw [opcodeRows_eq_map_rowOf, List.mem_map]
  constructor
  · rintro ⟨i, -, eq⟩
    exact ⟨i, eq⟩
  · rintro ⟨i, eq⟩
    exact ⟨i.withOperands 0 0, withOperands_zero_mem_commands i, (rowOf_withOperands i 0 0).trans eq⟩

theorem Instr.withOperands_self (i : Instr) : i.withOperands (operandA i) (operandB i) = i := by
  cases i <;> rfl

theorem opcodeOf_withOperands (i : Instr) (a b : Nat) : opcodeOf (i.withOperands a b) = opcodeOf i := by
  cases i <;> rfl

theorem operandA_withOperands_zero (i : Instr) : operandA (i.withOperands 0 0) = 0 := by
  cases i <;> rfl

theorem operandB_withOperands_zero (i : Instr) : operandB (i.withOperands 0 0) = 0 := by
  cases i <;> rfl

theorem fields_rowOf (i : Instr) :
    fieldOp (rowOf i).1 = opcodeOf i ∧ fieldA (rowOf i).1 = 0 ∧ fieldB (rowOf i).1 = 0 ∧ fieldZ (rowOf i).1 = 0 := by
  have wf : (i.withOperands 0 0).wellFormed = true := by
    rw [Instr.wellFormed_iff, operandA_withOperands_zero, operandB_withOperands_zero]
    decide
  have fields := encode_hasFields wf
  rw [HasFields, opcodeOf_withOperands, operandA_withOperands_zero, operandB_withOperands_zero] at fields
  exact fields

/-- Every mask has `OP` and `Z`. -/
theorem fieldOp_maskOf (i : Instr) : fieldOp (maskOf i) = 255 := by
  cases i <;> simp [maskOf, fieldOp]

theorem fieldZ_maskOf (i : Instr) : fieldZ (maskOf i) = 255 := by
  cases i <;> simp [maskOf, fieldZ]

/-- The mask has `A` exactly when the format does not use it (R102). -/
theorem and_fieldA_maskOf_eq_zero_iff (i : Instr) {x : Nat} (h : x < 256) (b : Nat) :
    x &&& fieldA (maskOf i) = 0 ↔ x = operandA (i.withOperands x b) := by
  cases i <;> simp [maskOf, fieldA, operandA, Instr.withOperands, and_255_of_lt h]

theorem and_fieldB_maskOf_eq_zero_iff (i : Instr) {x : Nat} (h : x < 256) (a : Nat) :
    x &&& fieldB (maskOf i) = 0 ↔ x = operandB (i.withOperands a x) := by
  cases i <;> simp [maskOf, fieldB, operandB, Instr.withOperands, and_255_of_lt h]

/-- A word matches a row exactly when it decodes to the row's instruction with the operands that stand in the word. -/
theorem matches_rowOf_iff (cmd : Word32) (i : Instr) :
    cmd &&& (rowOf i).2 = (rowOf i).1 ↔ decode cmd = .ok (i.withOperands (fieldA cmd) (fieldB cmd)) := by
  obtain ⟨op, a, b, z⟩ := fields_rowOf i
  have hA := and_fieldA_maskOf_eq_zero_iff i (fieldA_lt cmd) (fieldB cmd)
  have hB := and_fieldB_maskOf_eq_zero_iff i (fieldB_lt cmd) (fieldA cmd)
  rw [decode_eq_ok_iff, HasFields, opcodeOf_withOperands, ← hA, ← hB, word_eq_iff_fields, fieldOp_and, fieldA_and,
    fieldB_and, fieldZ_and, op, a, b, z, rowOf, fieldOp_maskOf, fieldZ_maskOf, and_255_of_lt (fieldOp_lt cmd),
    and_255_of_lt (fieldZ_lt cmd)]

/-- A word that decodes matches the row of its instruction. -/
theorem matches_rowOf_of_decode {cmd : Word32} {i : Instr} (h : decode cmd = .ok i) :
    cmd &&& (rowOf i).2 = (rowOf i).1 := by
  obtain ⟨-, a, b, -⟩ := hasFields_of_decode h
  rwa [matches_rowOf_iff, a, b, Instr.withOperands_self]

theorem exists_decode_iff_exists_row (cmd : Word32) :
    (∃ i, decode cmd = .ok i) ↔ ∃ row ∈ opcodeRows, fieldOp row.1 = fieldOp cmd ∧ cmd &&& row.2 = row.1 := by
  constructor
  · rintro ⟨i, h⟩
    obtain ⟨op, -⟩ := hasFields_of_decode h
    exact ⟨rowOf i, (mem_opcodeRows_iff _).2 ⟨i, rfl⟩, (fields_rowOf i).1.trans op.symm, matches_rowOf_of_decode h⟩
  · rintro ⟨row, mem, -, isMatch⟩
    obtain ⟨i, rfl⟩ := (mem_opcodeRows_iff row).1 mem
    exact ⟨_, (matches_rowOf_iff cmd i).1 isMatch⟩

/-- Two rows that a word matches are both the row of the instruction it decodes to. -/
theorem row_unique {cmd : Word32} {row row' : Word32 × Word32} (mem : row ∈ opcodeRows) (mem' : row' ∈ opcodeRows)
    (h : cmd &&& row.2 = row.1) (h' : cmd &&& row'.2 = row'.1) : row = row' := by
  obtain ⟨i, rfl⟩ := (mem_opcodeRows_iff row).1 mem
  obtain ⟨j, rfl⟩ := (mem_opcodeRows_iff row').1 mem'
  have same := ((matches_rowOf_iff cmd i).1 h).symm.trans ((matches_rowOf_iff cmd j).1 h')
  rw [← rowOf_withOperands i, Except.ok.inj same, rowOf_withOperands]

/-- Settles O4: a word matches the row of an instruction exactly when it decodes to that row's instruction. -/
theorem decoderAcceptsExactlyTheLegalWords : Obligations.DecoderAcceptsExactlyTheLegalWords :=
  ⟨exists_decode_iff_exists_row, fun _ _ mem _ mem' => row_unique mem mem'⟩

end Sys2Proof
end

section
/-!
PROOF. The wrapper of R110: the counter reads in every state, and the units that refuse. No step but a reset changes such a
unit, apart from a host's write of EBW.
-/
namespace Sys2Proof.Machine

/-! ### Counter reads (R189, R259, R294) -/

theorem runCounter_of_lt {cnt : Nat} (h : cnt < 2 ^ 64) (s : State) :
    runCounter cnt s = .next (s.respond .ok (zext64 cnt)) := if_pos h

theorem runCounter_of_le {cnt : Nat} (h : 2 ^ 64 ≤ cnt) (s : State) :
    runCounter cnt s = .refused .counterBeyond64Bits := if_neg h.not_gt

/-- Settles O22: both counter reads are `runCounter`, which asks for nothing but the size of the count. -/
theorem counterReadsAlwaysSucceed : Obligations.CounterReadsAlwaysSucceed := fun s =>
  ⟨fun h => runCounter_of_lt h s, fun h => runCounter_of_lt h s, fun h => runCounter_of_le h s,
    fun h => runCounter_of_le h s⟩

/-! ### Units that refuse (R285, R291) -/

/-- A poisoned or closed BR runs no command. -/
theorem runReader_of_refuses {s : State} (refuses : s.br.refuses = true) (sem : Reader → Res Reader Word64) :
    runReader sem s = .next (s.respond .refused 0) := if_pos refuses

/-- A poisoned or closed BW runs no command. -/
theorem runWriter_of_refuses {s : State} (refuses : s.bw.refuses = true) (sem : Writer → Res Writer Word64) :
    runWriter sem s = .next (s.respond .refused 0) := if_pos refuses

theorem exec_keeps_refusing_reader {i : Instr} {s t : State} (h : exec i s = .next t) (refuses : s.br.refuses = true) :
    t.br = s.br := by
  obtain ⟨reader, other⟩ | ⟨writer, -⟩ | rfl | rfl := Instr.kinds i
  · obtain ⟨sem, exec_eq⟩ := exec_reader i reader other
    rw [exec_eq, runReader_of_refuses refuses] at h
    cases h
    rfl
  · exact (exec_writer_independent writer h).1
  · exact (runCounter_independent h).2.1
  · exact (runCounter_independent h).2.1

theorem exec_keeps_refusing_writer {i : Instr} {s t : State} (h : exec i s = .next t) (refuses : s.bw.refuses = true) :
    t.bw = s.bw := by
  obtain ⟨reader, -⟩ | ⟨writer, other⟩ | rfl | rfl := Instr.kinds i
  · exact (exec_reader_independent reader h).1
  · obtain ⟨sem, exec_eq⟩ := exec_writer i writer other
    rw [exec_eq, runWriter_of_refuses refuses] at h
    cases h
    rfl
  · exact (runCounter_independent h).1.1
  · exact (runCounter_independent h).1.1

/-- An illegal word poisons the unit it selects, if that unit does not refuse, and never the other one (R284). -/
theorem rejectIllegal_keeps_refusing_unit {cmd : Word32} {s t : State} (h : rejectIllegal cmd s = .next t) :
    (s.br.refuses = true → t.br = s.br) ∧ (s.bw.refuses = true → t.bw = s.bw) := by
  obtain ⟨-, rfl⟩ | ⟨accepts, rfl⟩ := rejectIllegal_cases h
  · exact ⟨fun _ => rfl, fun _ => rfl⟩
  · cases unit : unitOf cmd <;> rw [unit] at accepts
    · exact ⟨fun refuses => absurd (accepts.symm.trans refuses) Bool.false_ne_true, fun _ => rfl⟩
    · exact ⟨fun _ => rfl, fun refuses => absurd (accepts.symm.trans refuses) Bool.false_ne_true⟩

/-- Of the host's actions only a reset of BR and a new source change BR. -/
theorem hostControl_keeps_reader {c : HostControl} {s t : State} (noReset : c ≠ .resetReader)
    (noSource : ∀ xs ys, c ≠ .bindReader xs ys) (h : hostControl c s = .next t) : t.br = s.br := by
  cases c with
  | resetReader => exact absurd rfl noReset
  | bindReader xs ys => exact absurd rfl (noSource xs ys)
  | resetWriter | bindWriter _ _ =>
    cases h
    simp
  | readEbr _ | readEbw _ | writeEbw _ _ =>
    simp only [hostControl] at h
    split at h <;> cases h
    rfl

/-- Of the host's actions only a reset of BW, a new sink and a write of EBW change BW. -/
theorem hostControl_keeps_writer {c : HostControl} {s t : State} (noReset : c ≠ .resetWriter)
    (noSink : ∀ xs ys, c ≠ .bindWriter xs ys) (noWrite : ∀ i b, c ≠ .writeEbw i b) (h : hostControl c s = .next t) :
    t.bw = s.bw := by
  cases c with
  | resetWriter => exact absurd rfl noReset
  | bindWriter xs ys => exact absurd rfl (noSink xs ys)
  | writeEbw i b => exact absurd rfl (noWrite i b)
  | resetReader | bindReader _ _ =>
    cases h
    simp
  | readEbr _ | readEbw _ =>
    simp only [hostControl] at h
    split at h <;> cases h
    rfl

/-- A host's write of EBW sets its entry and leaves the rest of BW (R68). -/
theorem hostControl_writeEbw {s t : State} {i : Nat} {b : Byte} (h : hostControl (.writeEbw i b) s = .next t) :
    t.bw = { s.bw with ebw := memWrite s.bw.ebw i b } := by
  simp only [hostControl] at h
  split at h <;> cases h
  rfl

/-- A step leaves a refusing BR as it is, unless the host resets it or gives it a new source. -/
theorem step_keeps_refusing_reader {s t : State} (h : step s = .next t) (refuses : s.br.refuses = true)
    (noReset : ∀ a rest, s.host = a :: rest → a ≠ .control .resetReader ∧ ∀ xs ys, a ≠ .control (.bindReader xs ys)) :
    t.br = s.br := by
  obtain rfl | ⟨a, s', taken, action⟩ := step_cases h
  · rfl
  · obtain ⟨rest, head, rfl, -⟩ := nextAction_cases taken
    obtain ⟨cmd, opv, rfl, ⟨i, -, run⟩ | ⟨-, run⟩⟩ | ⟨c, rfl, run⟩ := action
    · exact exec_keeps_refusing_reader (s := { s with host := rest }.present cmd opv) run refuses
    · exact (rejectIllegal_keeps_refusing_unit run).1 refuses
    · obtain ⟨reset, source⟩ := noReset _ rest head
      exact hostControl_keeps_reader (s := { s with host := rest }) (by simpa using reset) (by simpa using source) run

/-- A step leaves a refusing BW as it is, unless the host resets it, gives it a new sink or writes an entry of EBW. -/
theorem step_keeps_refusing_writer {s t : State} (h : step s = .next t) (refuses : s.bw.refuses = true)
    (noReset : ∀ a rest, s.host = a :: rest → a ≠ .control .resetWriter ∧ ∀ xs ys, a ≠ .control (.bindWriter xs ys))
    (noWrite : s.hung ≠ none ∨ ∀ i b rest, s.host ≠ .control (.writeEbw i b) :: rest) : t.bw = s.bw := by
  obtain rfl | ⟨a, s', taken, action⟩ := step_cases h
  · rfl
  · obtain ⟨rest, head, rfl, waiting⟩ := nextAction_cases taken
    obtain ⟨cmd, opv, rfl, ⟨i, -, run⟩ | ⟨-, run⟩⟩ | ⟨c, rfl, run⟩ := action
    · exact exec_keeps_refusing_writer (s := { s with host := rest }.present cmd opv) run refuses
    · exact (rejectIllegal_keeps_refusing_unit run).2 refuses
    · obtain ⟨reset, sink⟩ := noReset _ rest head
      have noEntry : ∀ i b, c ≠ .writeEbw i b := by
        rintro i b rfl
        obtain unfinished | noWrite := noWrite
        · exact Bool.false_ne_true (waiting (Option.isSome_iff_ne_none.2 unfinished))
        · exact noWrite i b rest head
      exact hostControl_keeps_writer (s := { s with host := rest }) (by simpa using reset) (by simpa using sink)
        noEntry run

/-- Settles O35: a command finds the unit refusing or is the other unit's, and of the host's other actions only those named
in the statement touch the unit. -/
theorem refusingUnitsStayAsTheyAreUntilReset : Obligations.RefusingUnitsStayAsTheyAreUntilReset := by
  unfold Obligations.RefusingUnitsStayAsTheyAreUntilReset
  intro s t h
  refine ⟨step_keeps_refusing_reader h, fun refuses noReset => ⟨fun i b rest idle head => ?_,
    step_keeps_refusing_writer h refuses noReset⟩⟩
  rw [step_of_control head idle] at h
  exact hostControl_writeEbw (s := { s with host := rest }) h

end Sys2Proof.Machine
end

section
/-!
PROOF. The ignored bits of `OPV` (R108, U14): the wrappers of R110 do not read `OPV`, and each `Sem` reads no more of it than
its command's operand.
-/
namespace Sys2Proof.Machine

/-! ### The wrappers do not read OPV -/

theorem runReader_opv {sem sem' : Reader → Res Reader Word64} {s t : State} (same : sem' = sem)
    (h : runReader sem s = .next t) (opv : Word64) : runReader sem' { s with opv := opv } = .next { t with opv := opv } := by
  subst same
  obtain ⟨refuses, rfl⟩ | ⟨accepts, ⟨v, r, eq, rfl⟩ | ⟨e, r, eq, rfl⟩ | ⟨r, eq, rfl⟩⟩ := runReader_cases h
  · exact runReader_of_refuses (s := { s with opv := opv }) refuses sem'
  · simp only [runReader, accepts, eq]; rfl
  · simp only [runReader, accepts, eq]; rfl
  · simp only [runReader, accepts, eq]; rfl

theorem runWriter_opv {sem sem' : Writer → Res Writer Word64} {s t : State} (same : sem' = sem)
    (h : runWriter sem s = .next t) (opv : Word64) : runWriter sem' { s with opv := opv } = .next { t with opv := opv } := by
  subst same
  obtain ⟨refuses, rfl⟩ | ⟨accepts, ⟨v, w, eq, rfl⟩ | ⟨e, w, eq, rfl⟩ | ⟨w, eq, rfl⟩⟩ := runWriter_cases h
  · exact runWriter_of_refuses (s := { s with opv := opv }) refuses sem'
  · simp only [runWriter, accepts, eq]; rfl
  · simp only [runWriter, accepts, eq]; rfl
  · simp only [runWriter, accepts, eq]; rfl

theorem runCounter_opv {cnt : Nat} {s t : State} (h : runCounter cnt s = .next t) (opv : Word64) :
    runCounter cnt { s with opv := opv } = .next { t with opv := opv } := by
  obtain ⟨hasForm, rfl⟩ := runCounter_cases h
  exact runCounter_of_lt hasForm _

/-! ### Commands without an operand, and those of the int class -/

/-- The BR commands without an operand are the same `Sem` for every `OPV`. -/
theorem exec_reader_noOperand {i : Instr} (reader : i.onWriter = false) (align : i ≠ .ralign) (counter : i ≠ .rcnt) :
    ∃ sem : Reader → Res Reader Word64, ∀ s, exec i s = runReader sem s := by
  cases i with
  | rbool | ru8 _ | ru16 _ | ru32 _ | rs32 _ | ru64 _ | rs64 _ | rf32 | rf64 | rlpb _ _ | rclose =>
    exact ⟨_, fun _ => rfl⟩
  | ralign => exact absurd rfl align
  | rcnt => exact absurd rfl counter
  | _ => simp [Instr.onWriter, opcodeOf] at reader

theorem exec_noOperand_opv {i : Instr} {s t : State} (h : exec i s = .next t) (opv : Word64)
    (noOperand : i.onWriter = false ∧ i ≠ .ralign ∨ i = .wclose ∨ i = .wcnt) :
    exec i { s with opv := opv } = .next { t with opv := opv } := by
  obtain ⟨reader, align⟩ | rfl | rfl := noOperand
  · by_cases counter : i = .rcnt
    · subst counter
      exact runCounter_opv h opv
    · obtain ⟨sem, exec_eq⟩ := exec_reader_noOperand reader align counter
      rw [exec_eq] at h ⊢
      exact runReader_opv rfl h opv
  · exact runWriter_opv rfl h opv
  · exact runCounter_opv h opv

/-- A command of the int class reads `OPV[31:0]` alone. -/
theorem exec_intClass_opv {i : Instr} {s t : State} (h : exec i s = .next t) {opv : Word64}
    (low : opvLow opv = opvLow s.opv)
    (intClass : i = .wbool ∨ i = .wf32 ∨ i = .ralign ∨ i = .walign ∨
      (∃ len, i = .wu8 len ∨ i = .wu16 len ∨ i = .wu32 len ∨ i = .ws32 len) ∨ (∃ scale range, i = .wlpb scale range)) :
    exec i { s with opv := opv } = .next { t with opv := opv } := by
  have int : opvInt32 opv = opvInt32 s.opv := congrArg BitVec.toInt low
  have pattern : opvPattern32 opv = opvPattern32 s.opv := congrArg BitVec.toNat low
  obtain rfl | rfl | rfl | rfl | ⟨len, rfl | rfl | rfl | rfl⟩ | ⟨scale, range, rfl⟩ := intClass
  · exact runWriter_opv (funext fun w => by simp only [semWbool, int]) h opv
  · exact runWriter_opv (funext fun w => by simp only [semWf32, pattern]) h opv
  · exact runReader_opv (funext fun r => by simp only [semRalign, int]) h opv
  · exact runWriter_opv (funext fun w => by simp only [semWalign, int]) h opv
  · exact runWriter_opv (funext fun w => by simp only [semWu8, int]) h opv
  · exact runWriter_opv (funext fun w => by simp only [semWu16, int]) h opv
  · exact runWriter_opv (funext fun w => by simp only [semWu32, int]) h opv
  · exact runWriter_opv (funext fun w => by simp only [semWs32, int]) h opv
  · exact runWriter_opv (funext fun w => by simp only [semWlpb, int]) h opv

/-- Settles O41: the wrappers keep `OPV` and do not read it, and each `Sem` reads no more of it than its operand. -/
theorem ignoredOperandBitsHaveNoEffect : Obligations.IgnoredOperandBitsHaveNoEffect := fun _ _ _ opv h =>
  ⟨fun intClass low => exec_intClass_opv h low intClass, exec_noOperand_opv h opv⟩

end Sys2Proof.Machine
end

section
/-!
PROOF. What a read does, said once for every value read of BR: `Delivers` is the triple of a piece of pseudocode that needs
`n` bits. Either that many are readable, and it returns what `value` gives of them and consumes exactly them (R67, R79), or
it stops where the source ends (R155, R282, R283). Triples follow one another, so the serial read has one at every length.
-/
namespace Sys2Proof.Machine

/-! ### The ready bytes of a source -/

/-- Pulling `k` of the ready bytes takes them from the front of the script and leaves the others, and what ends them. -/
theorem readyBytes_split {k : Nat} {l : List PullAnswer} (ready : k ≤ (readyBytes l).length) :
    l.take k = ((readyBytes l).take k).map PullAnswer.byte ∧ readyBytes (l.drop k) = (readyBytes l).drop k ∧
      answerAfterReady (l.drop k) = answerAfterReady l := by
  induction l generalizing k with
  | nil => simp [readyBytes]
  | cons a l ih =>
    cases k with
    | zero => simp
    | succ k =>
      cases a with
      | byte b =>
        obtain ⟨front, rest, ending⟩ := ih (Nat.le_of_succ_le_succ ready)
        simp [readyBytes, answerAfterReady, front, rest, ending]
      | _ => simp [readyBytes] at ready

/-- A read of no more bits than are readable pulls ready bytes only. -/
theorem pullsFor_le {n : Nat} {r : Reader} (enough : n ≤ (readableBits r).length) :
    pullsFor n r ≤ (readyBytes r.src.answers).length := by
  rw [readableBits_length] at enough
  unfold pullsFor
  omega

/-! ### How a read leaves BR -/

/-- BR after a read of `n` bits: they are consumed and EBR stays. -/
structure Reader.ReadOn (n : Nat) (r r' : Reader) : Prop where
  consumes : ConsumesBits n r r'
  ebr : r'.ebr = r.ebr

/-- BR after a read that met the source's end: EBR stays, and `ERR` until the wrapper records the error (R110). -/
structure Reader.RanOut (r r' : Reader) : Prop where
  exhausts : ExhaustsSource r r'
  ebr : r'.ebr = r.ebr
  err : r'.err = r.err

/-- The answer of the source that makes a pull raise `e` (R140). -/
def Raise.cause (e : Raise) : Option PullAnswer :=
  match e with
  | .endOfStream => some .endOfData
  | .channelIOFailure code => some (.fail code)
  | .invalidArgument | .illegalCommand => none

/-- How a read of `n` bits ends if fewer are readable from `r`: by the answer the source gives after its ready bytes. -/
def Reader.starved (n : Nat) (r : Reader) : Leaves Reader where
  done _ := True
  raised e r' := (readableBits r).length < n ∧ r.RanOut r' ∧ e.cause = some (answerAfterReady r.src.answers)
  hung r' := (readableBits r).length < n ∧ r.RanOut r' ∧ answerAfterReady r.src.answers = .noAnswer

/-- `x` reads `n` bits from `r`: it returns what `value` gives of them, if they are readable. -/
def Delivers {α : Type} (n : Nat) (value : List Bool → α) (r : Reader) (x : Res Reader α) : Prop :=
  x.EndsIn (fun v r' => n ≤ (readableBits r).length ∧ v = value ((readableBits r).take n) ∧ r.ReadOn n r')
    (r.starved n)

theorem Reader.ReadOn.trans {m n : Nat} {r r₁ r₂ : Reader} (h : r.ReadOn m r₁) (g : r₁.ReadOn n r₂) :
    r.ReadOn (m + n) r₂ :=
  ⟨h.consumes.trans g.consumes, g.ebr.trans h.ebr⟩

/-- Where the source ends does not depend on how far BR has read. -/
theorem Reader.ReadOn.answerAfterReady_eq {m : Nat} {r r₁ : Reader} (h : r.ReadOn m r₁)
    (enough : m ≤ (readableBits r).length) : answerAfterReady r₁.src.answers = answerAfterReady r.src.answers := by
  rw [h.consumes.answers, (readyBytes_split (pullsFor_le enough)).2.2]

/-- Running out after a read of bits that were there is running out. -/
theorem Reader.ReadOn.ranOut {m : Nat} {r r₁ r₂ : Reader} (h : r.ReadOn m r₁) (enough : m ≤ (readableBits r).length)
    (g : r₁.RanOut r₂) : r.RanOut r₂ := by
  have pulls := pullsFor_le enough
  obtain ⟨front, rest, -⟩ := readyBytes_split pulls
  have ready : readyBytes r₁.src.answers = (readyBytes r.src.answers).drop (pullsFor m r) := by
    rw [h.consumes.answers, rest]
  have left : (readyBytes r₁.src.answers).length = (readyBytes r.src.answers).length - pullsFor m r := by
    rw [ready, List.length_drop]
  have history : r₁.src.events ++ (readyBytes r₁.src.answers).map (fun b => SourceEvent.pull (.byte b)) =
      r.src.events ++ (readyBytes r.src.answers).map fun b => SourceEvent.pull (.byte b) := by
    rw [h.consumes.events, front, ready, List.map_map, List.append_assoc]
    exact congrArg _ (by rw [← Function.comp_def, ← List.map_append, List.take_append_drop])
  exact
    { exhausts :=
        { cursor := g.exhausts.cursor
          count := by rw [g.exhausts.count, h.consumes.count]; omega
          answers := by rw [g.exhausts.answers, left, h.consumes.answers, List.drop_drop]; congr 1; omega
          events := by rw [g.exhausts.events, history, h.answerAfterReady_eq enough]
          closeAnswers := g.exhausts.closeAnswers.trans h.consumes.closeAnswers
          past := g.exhausts.past.trans h.consumes.past
          closed := g.exhausts.closed.trans h.consumes.closed }
      ebr := g.ebr.trans h.ebr
      err := g.err.trans h.consumes.err }

/-! ### Sequencing -/

/-- A triple with weaker ends. -/
theorem Res.EndsIn.mono {σ α : Type} {x : Res σ α} {D D' : α → σ → Prop} {X X' : Leaves σ} (h : x.EndsIn D X)
    (done : ∀ v s, D v s → D' v s) (raised : ∀ e s, X.raised e s → X'.raised e s) (hung : ∀ s, X.hung s → X'.hung s) :
    x.EndsIn D' X' := by
  cases x with
  | done v s => exact done v s h
  | raise e s => exact raised e s h
  | hang s => exact hung s h

section
variable {α β γ : Type} {m n : Nat} {f : List Bool → α} {g : List Bool → β} {r : Reader}

/-- A read of no bits. -/
theorem Delivers.nothing (r : Reader) (v : α) : Delivers 0 (fun _ => v) r (.done v r) :=
  ⟨Nat.zero_le _, rfl, .zero r, rfl⟩

/-- The value may be converted at the end. -/
theorem Delivers.map {x : Res Reader α} (h : Delivers n f r x) (c : α → γ) :
    Delivers n (fun bits => c (f bits)) r (x.bind fun v r' => .done (c v) r') :=
  Res.EndsIn.bind h fun _ _ _ ⟨enough, value, read⟩ => ⟨enough, congrArg c value, read⟩

/-- Only the value of `n` bits counts. -/
theorem Delivers.congr {f' : List Bool → α} {x : Res Reader α} (h : Delivers n f r x)
    (same : ∀ bits : List Bool, bits.length = n → f bits = f' bits) : Delivers n f' r x :=
  Res.EndsIn.mono h
    (fun _ _ ⟨enough, value, read⟩ => ⟨enough, value.trans (same _ (List.length_take_of_le enough)), read⟩)
    (fun _ _ h => h) (fun _ h => h)

/-- One read after another reads the bits of both. -/
theorem Delivers.seq {x : Res Reader α} {y : Reader → Res Reader β} (first : Delivers m f r x)
    (next : ∀ r', Delivers n g r' (y r')) (c : α → β → γ) :
    Delivers (m + n) (fun bits => c (f (bits.take m)) (g (bits.drop m))) r
      (x.bind fun a r' => (y r').bind fun b r'' => .done (c a b) r'') := by
  refine Res.EndsIn.bind (first.mono (fun _ _ h => h) ?_ ?_) fun a r₁ _ ⟨enough, value, read⟩ => ?_
  · exact fun _ _ ⟨short, ends⟩ => ⟨short.trans_le (Nat.le_add_right m n), ends⟩
  · exact fun _ ⟨short, ends⟩ => ⟨short.trans_le (Nat.le_add_right m n), ends⟩
  have rest : (readableBits r₁).length = (readableBits r).length - m := by
    rw [read.consumes.bits, List.length_drop]
  refine Res.EndsIn.mono ((next r₁).map (c a)) ?_ ?_ ?_
  · rintro _ r₂ ⟨enough', rfl, read'⟩
    refine ⟨by omega, ?_, read.trans read'⟩
    simp [value, read.consumes.bits, List.take_take, List.drop_take]
  · exact fun _ _ ⟨short, ranOut, cause⟩ =>
      ⟨by omega, read.ranOut enough ranOut, cause.trans (congrArg some (read.answerAfterReady_eq enough))⟩
  · exact fun _ ⟨short, ranOut, cause⟩ =>
      ⟨by omega, read.ranOut enough ranOut, (read.answerAfterReady_eq enough).symm.trans cause⟩

end

/-! ### The bit, and the serial read -/

/-- A byte is ready, or the source ends here. -/
theorem readyBytes_cases (l : List PullAnswer) :
    (∃ b rest, l = .byte b :: rest) ∨ (readyBytes l = [] ∧ answerAfterReady l = l.headD .endOfData ∧
      ∀ b, l.headD .endOfData ≠ .byte b) := by
  rcases l with _ | ⟨_ | _ | _ | _, rest⟩ <;> simp [readyBytes, answerAfterReady]

/-- A buffered bit. -/
theorem rBit_delivers_of_lt {r : Reader} (buffered : r.cur.val < 8) :
    Delivers 1 (fun bits => bits.headD false) r (rBit r) := by
  have bits : readableBits r = flagAt r.win r.cur :: readableBits { r with cur := nextCur r.cur } := by
    simp [readableBits, drop_eq_flagAt_cons r.win r.cur buffered]
  have pulls : pullsFor 1 r = 0 := by unfold pullsFor; omega
  rw [rBit_of_lt r buffered]
  refine ⟨by simp [bits], by simp [bits], ?_, rfl⟩
  constructor
  case bits => simp [bits]
  case position => simp [nextCur_val r.cur buffered, add_assoc]
  all_goals simp [pulls]

/-- A bit for which a byte is pulled. -/
theorem rBit_delivers_of_byte {r : Reader} (empty : r.cur.val = 8) {b : Byte} {rest : List PullAnswer}
    (ready : r.src.answers = .byte b :: rest) : Delivers 1 (fun bits => bits.headD false) r (rBit r) := by
  have bits : readableBits r = flagAt (flagsOf b) 0 ::
      ((flagsOf b).toList.drop (nextCur 0).val ++ (readyBytes rest).flatMap byteBits) := by
    rw [← List.cons_append, ← drop_eq_flagAt_cons (flagsOf b) 0 (by decide)]
    simp [readableBits, empty, ready, readyBytes, byteBits]
  have pulls : pullsFor 1 r = 1 := by simp [pullsFor, empty]
  rw [rBit_of_byte r b rest empty ready]
  refine ⟨by simp [bits], by simp [bits], ?_, rfl⟩
  constructor
  case bits => rw [bits]; rfl
  case position => simp [empty, nextCur_val 0 (by decide), mul_add]
  all_goals simp [pulls, ready]

/-- No bit is left: the pull brings no byte. -/
theorem rBit_delivers_of_empty {r : Reader} (empty : r.cur.val = 8) (ends : readyBytes r.src.answers = [])
    (ending : answerAfterReady r.src.answers = r.src.answers.headD .endOfData)
    (noByte : ∀ b, r.src.answers.headD .endOfData ≠ .byte b) :
    Delivers 1 (fun bits => bits.headD false) r (rBit r) := by
  have short : (readableBits r).length < 1 := by simp [readableBits_length, empty, ends]
  have ranOut : r.RanOut { r with src := { r.src with
      answers := r.src.answers.tail
      events := r.src.events ++ [.pull (r.src.answers.headD .endOfData)] } } :=
    { exhausts := by constructor <;> simp [empty, ends, ending]
      ebr := rfl
      err := rfl }
  unfold rBit
  rw [rEnsure_of_eq r empty, rRefill_eq]
  simp only
  split
  · exact absurd ‹_› (noByte _)
  · exact ⟨short, ‹_› ▸ ranOut, congrArg some (ending.trans ‹_›).symm⟩
  · exact ⟨short, ‹_› ▸ ranOut, congrArg some (ending.trans ‹_›).symm⟩
  · exact ⟨short, ‹_› ▸ ranOut, ending.trans ‹_›⟩

/-- R140: the bit that is next, with a pull if none is buffered. -/
theorem rBit_delivers (r : Reader) : Delivers 1 (fun bits => bits.headD false) r (rBit r) := by
  rcases Nat.lt_or_ge r.cur.val 8 with buffered | full
  · exact rBit_delivers_of_lt buffered
  · have empty : r.cur.val = 8 := by omega
    obtain ⟨b, rest, ready⟩ | ⟨ends, ending, noByte⟩ := readyBytes_cases r.src.answers
    · exact rBit_delivers_of_byte empty ready
    · exact rBit_delivers_of_empty empty ends ending noByte

/-- R141: the serial read delivers the unsigned reading of the next bits (R65). -/
theorem rGetBits_delivers (n : Nat) (r : Reader) : Delivers n bitsToNat r (rGetBits n r) := by
  induction n generalizing r with
  | zero => exact (Delivers.nothing r 0).congr fun bits none => by simp [List.eq_nil_of_length_eq_zero none, bitsToNat]
  | succ n ih =>
    rw [rGetBits_succ, Nat.add_comm]
    simp only [rGetBitsFrom_eq_bind_rGetBits]
    refine ((rBit_delivers r).seq ih fun b low => b.toNat * 2 ^ n + low).congr fun bits len => ?_
    obtain ⟨b, bits, rfl⟩ := List.exists_cons_of_length_eq_add_one (len.trans (Nat.add_comm 1 n))
    obtain rfl : bits.length = n := by simpa [Nat.add_comm] using len
    simp [bitsToNat_cons]

/-! ### Commands that read -/

/-- Command `i` reads `n` bits and answers with what `value` gives of them. -/
def CommandReads (i : Instr) (n : Nat) (value : List Bool → Word64) : Prop :=
  ∃ sem : Reader → Res Reader Word64, (∀ s, exec i s = runReader sem s) ∧ ∀ r, Delivers n value r (sem r)

/-- The wrapper of a BR that accepts commands answers, or marks the command unfinished, as the pseudocode ends (R110). -/
theorem runReader_ends {sem : Reader → Res Reader Word64} {s : State} {D : Word64 → Reader → Prop} {X : Leaves Reader}
    (accepts : s.br.refuses = false) (ends : (sem s.br).EndsIn D X) :
    ∃ t, runReader sem s = .next t ∧
      ((∃ v r, D v r ∧ t = (s.setBr r).respond .ok v) ∨ (∃ e r, X.raised e r ∧ t = (s.setBr r).takeError .br e) ∨
        ∃ r, X.hung r ∧ t = (s.setBr r).hang .br) := by
  cases result : sem s.br with
  | done v r =>
    rw [result] at ends
    exact ⟨_, by simp only [runReader, accepts, result]; rfl, .inl ⟨v, r, ends, rfl⟩⟩
  | raise e r =>
    rw [result] at ends
    exact ⟨_, by simp only [runReader, accepts, result]; rfl, .inr (.inl ⟨e, r, ends, rfl⟩)⟩
  | hang r =>
    rw [result] at ends
    exact ⟨_, by simp only [runReader, accepts, result]; rfl, .inr (.inr ⟨r, ends, rfl⟩)⟩

/-- Recording an error does not move BR. -/
theorem ExhaustsSource.setErr {r r' : Reader} (h : ExhaustsSource r r') (err : Option ErrorKind) :
    ExhaustsSource r { r' with err := err } :=
  ⟨h.cursor, h.count, h.answers, h.events, h.closeAnswers, h.past, h.closed⟩

/-- A raise for want of a byte is answered as the source ended: status 2, or status 3 with its code (R282, R283). -/
theorem sourceEnded_of_raise {s : State} {r : Reader} {e : Raise} (ranOut : s.br.RanOut r)
    (cause : e.cause = some (answerAfterReady s.br.src.answers)) : SourceEnded s ((s.setBr r).takeError .br e) := by
  refine ⟨ranOut.exhausts.setErr _, ?_⟩
  cases e with
  | endOfStream => rw [← Option.some.inj cause]; exact ⟨rfl, rfl, rfl⟩
  | channelIOFailure code => rw [← Option.some.inj cause]; exact ⟨rfl, rfl, rfl⟩
  | invalidArgument => simp [Raise.cause] at cause
  | illegalCommand => simp [Raise.cause] at cause

/-- An unanswered pull leaves the command unfinished (R334). -/
theorem sourceEnded_of_hang {s : State} {r : Reader} (accepts : s.br.refuses = false) (ranOut : s.br.RanOut r)
    (ending : answerAfterReady s.br.src.answers = .noAnswer) : SourceEnded s ((s.setBr r).hang .br) := by
  refine ⟨ranOut.exhausts, ?_⟩
  rw [ending]
  exact ⟨ranOut.err.trans ((Reader.refuses_eq_false s.br).1 accepts).1, rfl⟩

section
variable {i : Instr} {n : Nat} {value : List Bool → Word64}

theorem CommandReads.returnsNextBits (h : CommandReads i n value) : ReturnsNextBits i n value := by
  obtain ⟨sem, exec_eq, delivers⟩ := h
  intro s accepts enough
  obtain ⟨t, run, ⟨v, r, ⟨-, rfl, read⟩, rfl⟩ | ⟨e, r, ⟨short, -⟩, rfl⟩ | ⟨r, ⟨short, -⟩, rfl⟩⟩ :=
    runReader_ends accepts (delivers s.br)
  · exact ⟨_, (exec_eq s).trans run, rfl, read.consumes, read.ebr, rfl⟩
  · exact absurd short enough.not_gt
  · exact absurd short enough.not_gt

theorem CommandReads.stopsAtSourceEnd (h : CommandReads i n value) : StopsAtSourceEnd i n := by
  obtain ⟨sem, exec_eq, delivers⟩ := h
  intro s accepts short
  obtain ⟨t, run, ⟨v, r, ⟨enough, -⟩, rfl⟩ | ⟨e, r, ⟨-, ranOut, cause⟩, rfl⟩ | ⟨r, ⟨-, ranOut, ending⟩, rfl⟩⟩ :=
    runReader_ends accepts (delivers s.br)
  · exact absurd short enough.not_gt
  · exact ⟨_, (exec_eq s).trans run, sourceEnded_of_raise ranOut cause, ranOut.ebr⟩
  · exact ⟨_, (exec_eq s).trans run, sourceEnded_of_hang accepts ranOut ending, ranOut.ebr⟩

end

end Sys2Proof.Machine
end

section
/-!
PROOF. The chunked reads of R142 to R145 are the serial read of R141 (R146): inside a window the flags are taken one by one,
two pieces or chunks one after another are the read of both, and a chunk's value fits below what was shifted up for it.
-/
namespace Sys2Proof.Machine

/-! ### Inside a window -/

/-- What follows a piece of pseudocode matters only at what it returns. -/
theorem Res.bind_congr {σ α β : Type} {x : Res σ α} {f g : α → σ → Res σ β}
    (same : ∀ v s, x = .done v s → f v s = g v s) : x.bind f = x.bind g := by
  cases x with
  | done v s => exact same v s rfl
  | raise e s => rfl
  | hang s => rfl

/-- Flags that are all buffered are taken without a pull. -/
theorem rGetBitsFrom_of_buffered (n v : Nat) (r : Reader) (buffered : r.cur.val + n ≤ 8) :
    rGetBitsFrom n v r = .done (rTake n v r).1 (rTake n v r).2 := by
  induction n generalizing v r with
  | zero => rfl
  | succ n ih =>
    have lt : r.cur.val < 8 := by omega
    rw [rGetBitsFrom, rBit_of_lt r lt, Res.bind_done, ih _ _ (by simp only [nextCur_val r.cur lt]; omega), rTake]

/-- A serial read of at least one bit begins with the refill it may need. -/
theorem rEnsure_bind_rGetBits {n : Nat} (pos : 1 ≤ n) (r : Reader) :
    ((rEnsure r).bind fun _ r' => rGetBits n r') = rGetBits n r := by
  obtain ⟨n, rfl⟩ := Nat.exists_eq_add_of_le' pos
  simp only [rGetBits_succ, rBit, Res.bind_assoc, Res.bind_done]
  refine Res.bind_congr fun _ r' done => ?_
  rw [rEnsure_of_lt r' (rEnsure_done done), Res.bind_done]

/-- R142: a piece that does not straddle, inside the window or in the next byte. -/
theorem rPiece_eq_rGetBits {n : Nat} (pos : 1 ≤ n) {r : Reader} (fits : r.cur.val + n ≤ 8 ∨ r.cur.val = 8 ∧ n ≤ 8) :
    rPiece n r = rGetBits n r := by
  rw [← rEnsure_bind_rGetBits pos, rPiece]
  refine Res.bind_congr fun _ r' done => (rGetBitsFrom_of_buffered n 0 r' ?_).symm
  rcases fits with inside | ⟨empty, max⟩
  · rw [rEnsure_of_lt r (by omega)] at done
    cases done
    exact inside
  · rw [rEnsure_of_eq r empty] at done
    simpa [rRefill_done done] using max

/-! ### One chunk after another -/

/-- A read of `n` bits gives a number of `n` bits. -/
theorem rGetBits_lt {n v : Nat} {r r' : Reader} (h : rGetBits n r = .done v r') : v < 2 ^ n := by
  have ends := rGetBits_delivers n r
  rw [h] at ends
  obtain ⟨enough, rfl, -⟩ := ends
  simpa [enough] using bitsToNat_lt ((readableBits r).take n)

/-- `v <- (v << n) | R_GetBits(n)` is the serial read going on from `v`. -/
theorem rGetBits_shiftLeft_or (n v : Nat) (r : Reader) :
    ((rGetBits n r).bind fun low r' => .done ((v <<< n) ||| low) r') = rGetBitsFrom n v r := by
  rw [rGetBitsFrom_eq_bind_rGetBits]
  refine Res.bind_congr fun low r' done => ?_
  rw [← Nat.shiftLeft_add_eq_or_of_lt (rGetBits_lt done), Nat.shiftLeft_eq]

/-- R142: whether the bits straddle two bytes or not. -/
theorem rBits8_eq_rGetBits {n : Nat} (pos : 1 ≤ n) (max : n ≤ 8) (r : Reader) : rBits8 n r = rGetBits n r := by
  rw [← rEnsure_bind_rGetBits pos, rBits8]
  refine Res.bind_congr fun _ r' done => ?_
  have buffered := rEnsure_done done
  split
  · exact rPiece_eq_rGetBits pos (.inl (by omega))
  · obtain ⟨k, total⟩ : ∃ k, n = (8 - r'.cur.val) + k := Nat.exists_eq_add_of_le (by omega)
    have boundary : (rTake (8 - r'.cur.val) 0 r').2.cur.val = 8 := by
      rw [rTake_cur _ _ _ (by omega)]
      omega
    have whole : rGetBits n r' = rGetBitsFrom k (rTake (8 - r'.cur.val) 0 r').1 (rTake (8 - r'.cur.val) 0 r').2 := by
      rw [rGetBits, total, rGetBitsFrom_add, rGetBitsFrom_of_buffered (8 - r'.cur.val) 0 r' (by omega), Res.bind_done]
    rw [show n - (8 - r'.cur.val) = k by omega, rPiece, rEnsure_of_lt r' buffered, Res.bind_done, Res.bind_done,
      rPiece_eq_rGetBits (by omega) (.inr ⟨boundary, by omega⟩), rGetBits_shiftLeft_or, whole]

/-- The loop over whole chunks. -/
theorem rRepeat_eq_rGetBitsFrom {chunk : Reader → Res Reader Nat} {width : Nat}
    (serial : ∀ r, chunk r = rGetBits width r) (q v : Nat) (r : Reader) :
    rRepeat chunk width q v r = rGetBitsFrom (width * q) v r := by
  induction q generalizing v r with
  | zero => rfl
  | succ q ih =>
    rw [Nat.mul_succ, Nat.add_comm (width * q) width, rGetBitsFrom_add, ← rGetBits_shiftLeft_or]
    simp [rRepeat, serial, ih]

/-- The remainder chunk and then the whole chunks. -/
theorem chunked_eq_rGetBits {op : Nat → Reader → Res Reader Nat} {width : Nat} (pos : 1 ≤ width)
    (serial : ∀ n, 1 ≤ n → n ≤ width → ∀ r, op n r = rGetBits n r) (len : Nat) (r : Reader) :
    (if 0 < len % width then op (len % width) r else .done 0 r).bind (rRepeat (op width) width (len / width)) =
      rGetBits len r := by
  have remainder : (if 0 < len % width then op (len % width) r else .done 0 r) = rGetBits (len % width) r := by
    split
    · exact serial _ ‹_› (Nat.mod_lt _ pos).le r
    · rw [show len % width = 0 by omega]
      rfl
  have whole : rRepeat (op width) width (len / width) = rGetBitsFrom (width * (len / width)) := by
    funext v r'
    exact rRepeat_eq_rGetBitsFrom (serial width pos le_rfl) _ v r'
  rw [remainder, whole, rGetBits, ← rGetBitsFrom_add, Nat.mod_add_div, rGetBits]

theorem rU16_eq_rGetBits (len : Nat) (r : Reader) : rU16 len r = rGetBits len r :=
  chunked_eq_rGetBits (by decide) (fun _ pos max => rBits8_eq_rGetBits pos max) len r

theorem rU32_eq_rGetBits (len : Nat) (r : Reader) : rU32 len r = rGetBits len r :=
  chunked_eq_rGetBits (by decide) (fun n _ _ => rU16_eq_rGetBits n) len r

theorem rU64_eq_rGetBits (len : Nat) (r : Reader) : rU64 len r = rGetBits len r :=
  chunked_eq_rGetBits (by decide) (fun n _ _ => rU32_eq_rGetBits n) len r

/-- Settles O42: the byte chunk by the two cases of R142, the longer ones as chunks read one after another. -/
theorem chunkedReadsEqualTheSerialRead : Obligations.ChunkedReadsEqualTheSerialRead :=
  ⟨fun _ r pos max => rBits8_eq_rGetBits pos max r, fun len r _ _ => rU16_eq_rGetBits len r,
    fun len r _ _ => rU32_eq_rGetBits len r, fun len r _ _ => rU64_eq_rGetBits len r⟩

end Sys2Proof.Machine
end

section
/-!
PROOF. The value reads of BR (R147 to R153, R180, R181): each is the serial read behind the validation of its length, with the
first bit apart where that is a sign.
-/
namespace Sys2Proof.Machine

/-- A command that validates its length and reads an unsigned number (R148 to R150, R152). -/
theorem read_unsigned_delivers {len : Nat} {test : Bool} (legal : test = true) {op : Reader → Res Reader Nat}
    (serial : ∀ r, op r = rGetBits len r) (r : Reader) :
    Delivers len (fun bits => zext64 (bitsToNat bits)) r
      (if test then (op r).bind fun v r' => .done (zext64 v) r' else .raise .invalidArgument r) := by
  rw [if_pos legal, serial]
  exact (rGetBits_delivers len r).map zext64

/-- A command that reads a sign and then `n` bits (R151, R153, R180, R181): `reading` is what its `value` makes of them. -/
theorem read_signed_delivers {n : Nat} {op : Reader → Res Reader Nat} (serial : ∀ r, op r = rGetBits n r)
    {value : Bool → Nat → Word64} {reading : List Bool → Word64}
    (same : ∀ sign bits, bits.length = n → value sign (bitsToNat bits) = reading (sign :: bits)) (r : Reader) :
    Delivers (1 + n) reading r
      ((rBit r).bind fun sign r' => (op r').bind fun m r'' => .done (value sign m) r'') := by
  simp only [serial]
  refine ((rBit_delivers r).seq (rGetBits_delivers n) value).congr fun bits all => ?_
  obtain ⟨sign, bits, rfl⟩ := List.exists_cons_of_length_eq_add_one (all.trans (Nat.add_comm 1 n))
  exact same sign bits (Nat.add_left_cancel ((Nat.add_comm 1 _).trans all))

/-- The construction of R151 and R153 is the two's-complement reading of the sign and the magnitude bits. -/
theorem signedValue_eq_bitsToInt (sign : Bool) (bits : List Bool) :
    signedValue (1 + bits.length) sign (bitsToNat bits) = bitsToInt (sign :: bits) := by
  simp [signedValue, bitsToInt]

/-- A command that validates its length and reads a signed number (R151, R153). -/
theorem read_twosComplement_delivers {len : Nat} {test : Bool} (legal : test = true) (pos : 1 ≤ len)
    {op : Reader → Res Reader Nat} (serial : ∀ r, op r = rGetBits (len - 1) r) (r : Reader) :
    Delivers len (fun bits => sext64 (bitsToInt bits)) r
      (if test then
        (rBit r).bind fun sign r' => (op r').bind fun m r'' => .done (sext64 (signedValue len sign m)) r''
      else .raise .invalidArgument r) := by
  obtain ⟨n, rfl⟩ := Nat.exists_eq_add_of_le pos
  rw [Nat.add_sub_cancel_left] at serial
  rw [if_pos legal]
  refine read_signed_delivers serial (fun sign bits all => ?_) r
  rw [← all, signedValue_eq_bitsToInt]

/-- A command that reads a floating-point pattern, of which the sign is the first bit (R180, R181). -/
theorem read_pattern_delivers {n : Nat} {op : Reader → Res Reader Nat} (serial : ∀ r, op r = rGetBits n r)
    (r : Reader) : Delivers (1 + n) (fun bits => zext64 (bitsToNat bits)) r
      ((rBit r).bind fun sign r' => (op r').bind fun m r'' => .done (zext64 (sign.toNat * 2 ^ n + m)) r'') :=
  read_signed_delivers serial (fun sign bits all => by rw [← all, bitsToNat_cons]) r

theorem rbool_reads : CommandReads .rbool 1 fun bits => zext64 (bitsToNat bits) := by
  refine ⟨semRbool, fun _ => rfl, fun r => ((rBit_delivers r).map fun b => zext64 b.toNat).congr fun bits one => ?_⟩
  obtain ⟨b, rfl⟩ := List.length_eq_one_iff.1 one
  simp [bitsToNat]

section
variable {len : Nat}

theorem ru8_reads (pos : 1 ≤ len) (max : len ≤ 8) : CommandReads (.ru8 len) len fun bits => zext64 (bitsToNat bits) :=
  ⟨semRu8 len, fun _ => rfl, read_unsigned_delivers ((inRange_iff 1 8 len).2 ⟨pos, max⟩) (rBits8_eq_rGetBits pos max)⟩

theorem ru16_reads (pos : 1 ≤ len) (max : len ≤ 16) : CommandReads (.ru16 len) len fun bits => zext64 (bitsToNat bits) :=
  ⟨semRu16 len, fun _ => rfl, read_unsigned_delivers ((inRange_iff 1 16 len).2 ⟨pos, max⟩) (rU16_eq_rGetBits len)⟩

theorem ru32_reads (pos : 1 ≤ len) (max : len ≤ 31) : CommandReads (.ru32 len) len fun bits => zext64 (bitsToNat bits) :=
  ⟨semRu32 len, fun _ => rfl, read_unsigned_delivers ((inRange_iff 1 31 len).2 ⟨pos, max⟩) (rU32_eq_rGetBits len)⟩

theorem ru64_reads (pos : 1 ≤ len) (max : len ≤ 63) : CommandReads (.ru64 len) len fun bits => zext64 (bitsToNat bits) :=
  ⟨semRu64 len, fun _ => rfl, read_unsigned_delivers ((inRange_iff 1 63 len).2 ⟨pos, max⟩) (rU64_eq_rGetBits len)⟩

theorem rs32_reads (min : 2 ≤ len) (max : len ≤ 32) :
    CommandReads (.rs32 len) len fun bits => sext64 (bitsToInt bits) :=
  ⟨semRs32 len, fun _ => rfl,
    read_twosComplement_delivers ((inRange_iff 2 32 len).2 ⟨min, max⟩) (by omega) (rU32_eq_rGetBits (len - 1))⟩

theorem rs64_reads (min : 2 ≤ len) (max : len ≤ 64) :
    CommandReads (.rs64 len) len fun bits => sext64 (bitsToInt bits) :=
  ⟨semRs64 len, fun _ => rfl,
    read_twosComplement_delivers ((inRange_iff 2 64 len).2 ⟨min, max⟩) (by omega) (rU64_eq_rGetBits (len - 1))⟩

end

theorem rf32_reads : CommandReads .rf32 32 fun bits => zext64 (bitsToNat bits) :=
  ⟨semRf32, fun _ => rfl, read_pattern_delivers (rU32_eq_rGetBits 31)⟩

theorem rf64_reads : CommandReads .rf64 64 fun bits => zext64 (bitsToNat bits) :=
  ⟨semRf64, fun _ => rfl, read_pattern_delivers (rU64_eq_rGetBits 63)⟩

/-- Settles O13: RBOOL is one bit of the serial read. -/
theorem booleanReadReturnsTheNextBit : Obligations.BooleanReadReturnsTheNextBit := rbool_reads.returnsNextBits

/-- Settles O14: behind the validation of its length, each of the four is the serial read of that length. -/
theorem unsignedReadsReturnTheNextBits : Obligations.UnsignedReadsReturnTheNextBits :=
  ⟨fun _ pos max => (ru8_reads pos max).returnsNextBits, fun _ pos max => (ru16_reads pos max).returnsNextBits,
    fun _ pos max => (ru32_reads pos max).returnsNextBits, fun _ pos max => (ru64_reads pos max).returnsNextBits⟩

/-- Settles O15: the sign bit and the magnitude bits are one stretch of the stream, read as `signedValue` puts them together. -/
theorem signedReadsReturnTheTwosComplementReading : Obligations.SignedReadsReturnTheTwosComplementReading :=
  ⟨fun _ min max => (rs32_reads min max).returnsNextBits, fun _ min max => (rs64_reads min max).returnsNextBits⟩

/-- Settles O23: the triples behind O13 to O15, and those of the float reads, for a source that ends too early. -/
theorem valueReadsStopAtTheSourceEnd : Obligations.ValueReadsStopAtTheSourceEnd :=
  ⟨rbool_reads.stopsAtSourceEnd, fun _ pos max => (ru8_reads pos max).stopsAtSourceEnd,
    fun _ pos max => (ru16_reads pos max).stopsAtSourceEnd, fun _ pos max => (ru32_reads pos max).stopsAtSourceEnd,
    fun _ min max => (rs32_reads min max).stopsAtSourceEnd, fun _ pos max => (ru64_reads pos max).stopsAtSourceEnd,
    fun _ min max => (rs64_reads min max).stopsAtSourceEnd, rf32_reads.stopsAtSourceEnd, rf64_reads.stopsAtSourceEnd⟩

end Sys2Proof.Machine
end

section
/-!
PROOF. The composite reads of BR (R180 to R188). RALIGN and RLPB have triples of their own: RALIGN's is a read of as many bits
as it discards, and RLPB's a read that starts with EBR as the command leaves it, so that one triple says what is stored both
when the bits are there and when the source ends.
-/
namespace Sys2Proof.Machine

/-! ### Float patterns (R180, R181) -/

/-- Settles O16: the triples of the float reads behind O23. -/
theorem floatReadsReturnThePattern : Obligations.FloatReadsReturnThePattern :=
  ⟨rf32_reads.returnsNextBits, rf64_reads.returnsNextBits⟩

/-! ### EBR beside the stream -/

section
variable {α β : Type} {m n : Nat} {r r₁ R : Reader}

/-- Consuming bits neither reads nor writes EBR. -/
theorem ConsumesBits.withEbr (h : ConsumesBits n r r₁) (ebr ebr₁ : Memory) :
    ConsumesBits n { r with ebr := ebr } { r₁ with ebr := ebr₁ } :=
  ⟨h.bits, h.position, h.count, h.answers, h.events, h.closeAnswers, h.past, h.err, h.closed⟩

theorem Reader.ReadOn.withEbr (h : r.ReadOn n r₁) (ebr : Memory) :
    { r with ebr := ebr }.ReadOn n { r₁ with ebr := ebr } :=
  ⟨h.consumes.withEbr ebr ebr, rfl⟩

/-- Meeting the source's end does not look at EBR either. -/
theorem ExhaustsSource.of_withEbr {ebr : Memory} (h : ExhaustsSource { r with ebr := ebr } r₁) : ExhaustsSource r r₁ :=
  ⟨h.cursor, h.count, h.answers, h.events, h.closeAnswers, h.past, h.closed⟩

theorem SourceEnded.of_withEbr {s t : State} {ebr : Memory}
    (h : SourceEnded (s.setBr { s.br with ebr := ebr }) t) : SourceEnded s t :=
  ⟨h.1.of_withEbr, h.2⟩

/-! ### Sequencing, where the second read depends on the first -/

/-- A read that goes on where another one stopped. -/
theorem Delivers.after {f : List Bool → α} {x : Res Reader α} (read : r.ReadOn m r₁)
    (enough : m ≤ (readableBits r).length) (h : Delivers n f r₁ x) :
    Delivers (m + n) (fun bits => f (bits.drop m)) r x := by
  have rest : (readableBits r₁).length = (readableBits r).length - m := by
    rw [read.consumes.bits, List.length_drop]
  refine Res.EndsIn.mono h ?_ ?_ ?_
  · rintro _ r₂ ⟨enough', rfl, read'⟩
    exact ⟨by omega, by simp [read.consumes.bits, List.drop_take], read.trans read'⟩
  · exact fun _ _ ⟨short, ranOut, cause⟩ =>
      ⟨by omega, read.ranOut enough ranOut, cause.trans (congrArg some (read.answerAfterReady_eq enough))⟩
  · exact fun _ ⟨short, ranOut, cause⟩ =>
      ⟨by omega, read.ranOut enough ranOut, (read.answerAfterReady_eq enough).symm.trans cause⟩

/-- Whatever follows a read of `m` bits, as seen from `R`: it starts from what the read returned, and `R` is where the read
started if the bits are not there. -/
theorem Delivers.bind {f : List Bool → α} {g : List Bool → β} {x : Res Reader α} {y : α → Reader → Res Reader β}
    (first : Delivers m f r x) (unread : (readableBits r).length < m → R = r)
    (next : m ≤ (readableBits r).length → ∀ r₁, r.ReadOn m r₁ →
      Delivers (m + n) g R (y (f ((readableBits r).take m)) r₁)) :
    Delivers (m + n) g R (x.bind y) := by
  refine Res.EndsIn.bind (first.mono (fun _ _ h => h) ?_ ?_) fun _ r₁ _ ⟨enough, value, read⟩ =>
    value ▸ next enough r₁ read
  · rintro _ _ ⟨short, ends⟩
    obtain rfl := unread short
    exact ⟨short.trans_le (Nat.le_add_right m n), ends⟩
  · rintro _ ⟨short, ends⟩
    obtain rfl := unread short
    exact ⟨short.trans_le (Nat.le_add_right m n), ends⟩

end

/-! ### The wrapper around a read -/

section
variable {sem : Reader → Res Reader Word64} {s : State} {n : Nat} {value : List Bool → Word64} {ebr : Memory}

/-- A read whose bits are there completes (R110); `ebr` is EBR after the command. -/
theorem runReader_of_readable (accepts : s.br.refuses = false)
    (delivers : Delivers n value { s.br with ebr := ebr } (sem s.br)) (enough : n ≤ (readableBits s.br).length) :
    ∃ t, runReader sem s = .next t ∧
      t.response = some { status := .ok, res := value ((readableBits s.br).take n) } ∧
      ConsumesBits n s.br t.br ∧ t.br.ebr = ebr ∧ OnlyReader s t := by
  obtain ⟨t, run, ⟨v, r, ⟨-, rfl, read⟩, rfl⟩ | ⟨e, r, ⟨short, -⟩, rfl⟩ | ⟨r, ⟨short, -⟩, rfl⟩⟩ :=
    runReader_ends accepts delivers
  · exact ⟨_, run, rfl, read.consumes.withEbr s.br.ebr r.ebr, read.ebr, rfl⟩
  · exact absurd short enough.not_gt
  · exact absurd short enough.not_gt

/-- A read whose bits are not there ends where the source does; `ebr` is EBR after the command. -/
theorem runReader_of_not_readable (accepts : s.br.refuses = false)
    (delivers : Delivers n value { s.br with ebr := ebr } (sem s.br)) (short : (readableBits s.br).length < n) :
    ∃ t, runReader sem s = .next t ∧ SourceEnded s t ∧ t.br.ebr = ebr := by
  obtain ⟨t, run, ⟨v, r, ⟨enough, -⟩, rfl⟩ | ⟨e, r, ⟨-, ranOut, cause⟩, rfl⟩ | ⟨r, ⟨-, ranOut, ending⟩, rfl⟩⟩ :=
    runReader_ends accepts delivers
  · exact absurd short enough.not_gt
  · exact ⟨_, run, (sourceEnded_of_raise (s := s.setBr { s.br with ebr := ebr }) ranOut cause).of_withEbr, ranOut.ebr⟩
  · exact ⟨_, run,
      (sourceEnded_of_hang (s := s.setBr { s.br with ebr := ebr }) accepts ranOut ending).of_withEbr, ranOut.ebr⟩

end

/-! ### RLPB (R183, R184) -/

/-- EBR after storing the first `n` elements of `range` bits from index `k` on, as far as `bits` goes. -/
def storeElements (range : Nat) : Nat → Nat → List Bool → Memory → Memory
  | 0, _, _, m => m
  | n + 1, k, bits, m =>
    if bits.length < range then m
    else storeElements range n (k + 1) (bits.drop range) (memWrite m k (BitVec.ofNat 8 (bitsToNat (bits.take range))))

theorem storeElements_of_short {range : Nat} {bits : List Bool} (short : bits.length < range) (n k : Nat) (m : Memory) :
    storeElements range n k bits m = m := by
  cases n with
  | zero => rfl
  | succ n => exact if_pos short

/-- What stands in EBR then: the elements that are complete, and elsewhere what stood there before. -/
theorem memPeek_storeElements (range n k : Nat) (bits : List Bool) (m : Memory) (i : Nat) :
    memPeek (storeElements range n k bits m) i =
      if k ≤ i ∧ i < k + n ∧ (i - k + 1) * range ≤ bits.length then
        some (BitVec.ofNat 8 (bitsToNat ((bits.drop ((i - k) * range)).take range)))
      else memPeek m i := by
  induction n generalizing k bits m with
  | zero => rw [storeElements, if_neg (by omega)]
  | succ n ih =>
    by_cases short : bits.length < range
    · have incomplete : ¬ (i - k + 1) * range ≤ bits.length := by
        rw [Nat.succ_mul]
        omega
      rw [storeElements_of_short short, if_neg fun ⟨_, _, complete⟩ => incomplete complete]
    · rw [storeElements, if_neg short, ih, memPeek_memWrite, List.drop_drop, List.length_drop]
      rcases Nat.lt_trichotomy i k with before | rfl | behind
      · rw [if_neg (by omega), if_neg (by omega), if_neg (by omega)]
      · rw [if_neg (by omega), if_pos rfl, if_pos ⟨le_rfl, by omega, by simpa using short⟩]
        simp
      · obtain ⟨j, rfl⟩ := Nat.exists_eq_add_of_lt behind
        rw [show k + j + 1 - (k + 1) = j by omega, show k + j + 1 - k = j + 1 by omega, Nat.succ_mul (j + 1),
          Nat.succ_mul j, Nat.add_comm range, if_neg (by omega : k + j + 1 ≠ k)]
        exact if_congr (by omega) rfl rfl

/-- The loop of R183: as seen from a BR that holds the complete elements already, it reads the bits of all of them. -/
theorem rElements_delivers {range : Nat} (pos : 1 ≤ range) (max : range ≤ 8) (n k : Nat) (r : Reader) {ebr : Memory}
    (stored : ebr = storeElements range n k (readableBits r) r.ebr) :
    Delivers (n * range) (fun _ => ()) { r with ebr := ebr } (rElements range n k r) := by
  induction n generalizing k r with
  | zero =>
    rw [Nat.zero_mul, stored]
    exact Delivers.nothing r ()
  | succ n ih =>
    rw [Nat.succ_mul, Nat.add_comm, rElements, rBits8_eq_rGetBits pos max]
    refine (rGetBits_delivers range r).bind (fun short => ?_) fun enough r₁ read => ?_
    · rw [stored, storeElements_of_short short]
    · refine Delivers.after (read.withEbr ebr) enough (ih (k + 1) { r₁ with ebr := memWrite r₁.ebr k _ } ?_)
      rw [stored, storeElements, if_neg enough.not_gt, ← read.consumes.bits, ← read.ebr]
      rfl

/-- EBR after RLPB: the elements follow the count. -/
def ebrAfterRlpb (scale range : Nat) (r : Reader) : Memory :=
  storeElements range (bitsToNat ((readableBits r).take scale)) 0 ((readableBits r).drop scale) r.ebr

/-- RLPB reads the count and as many elements, and returns the count. -/
theorem semRlpb_delivers {scale range : Nat} (scaleMin : 1 ≤ scale) (scaleMax : scale ≤ 16) (rangeMin : 1 ≤ range)
    (rangeMax : range ≤ 8) (r : Reader) :
    Delivers (scale + bitsToNat ((readableBits r).take scale) * range)
      (fun _ => zext64 (bitsToNat ((readableBits r).take scale))) { r with ebr := ebrAfterRlpb scale range r }
      (semRlpb scale range r) := by
  have legal : (inRange 1 16 scale && inRange 1 8 range) = true :=
    Bool.and_eq_true_iff.2 ⟨(inRange_iff 1 16 scale).2 ⟨scaleMin, scaleMax⟩, (inRange_iff 1 8 range).2 ⟨rangeMin, rangeMax⟩⟩
  rw [semRlpb, if_pos legal, rU32_eq_rGetBits]
  refine (rGetBits_delivers scale r).bind (fun short => ?_) fun enough r₁ read => ?_
  · have nothing : ((readableBits r).drop scale).length < range := by
      rw [List.length_drop]
      omega
    rw [ebrAfterRlpb, storeElements_of_short nothing]
  · have elements := rElements_delivers rangeMin rangeMax (bitsToNat ((readableBits r).take scale)) 0 r₁
      (ebr := ebrAfterRlpb scale range r) (by rw [ebrAfterRlpb, read.consumes.bits, read.ebr])
    exact Delivers.after (read.withEbr (ebrAfterRlpb scale range r)) enough (elements.map fun _ => zext64 (bitsToNat _))

/-- The entries of EBR after RLPB: the elements that are complete, and elsewhere what stood there before. -/
theorem memPeek_ebrAfterRlpb (scale range : Nat) (r : Reader) (i : Nat) :
    memPeek (ebrAfterRlpb scale range r) i =
      if i < bitsToNat ((readableBits r).take scale) ∧ (i + 1) * range ≤ (readableBits r).length - scale then
        some (BitVec.ofNat 8 (bitsToNat (((readableBits r).drop (scale + i * range)).take range)))
      else memPeek r.ebr i := by
  simp [ebrAfterRlpb, memPeek_storeElements]

/-- Settles O17: with all bits there every element is complete. -/
theorem prefixedReadDeliversTheElements : Obligations.PrefixedReadDeliversTheElements := by
  unfold Obligations.PrefixedReadDeliversTheElements
  intro s scale range accepts scaleMin scaleMax rangeMin rangeMax _ n enough
  obtain ⟨t, run, response, consumes, ebr, frame⟩ :=
    runReader_of_readable accepts (semRlpb_delivers scaleMin scaleMax rangeMin rangeMax s.br) enough
  refine ⟨t, run, response, consumes, fun i lt => ?_, fun i ge => ?_, frame⟩
  · have complete : (i + 1) * range ≤ n * range := Nat.mul_le_mul_right range lt
    rw [ebr, memPeek_ebrAfterRlpb, if_pos ⟨lt, by omega⟩]
  · rw [ebr, memPeek_ebrAfterRlpb, if_neg fun h => ge.not_gt h.1]

/-- Settles O18: `m` counts the elements that are complete, fewer than the count announces. -/
theorem prefixedReadStopsAtTheSourceEnd : Obligations.PrefixedReadStopsAtTheSourceEnd := by
  unfold Obligations.PrefixedReadStopsAtTheSourceEnd
  intro s scale range accepts scaleMin scaleMax rangeMin rangeMax ends m
  have short : (readableBits s.br).length < scale + bitsToNat ((readableBits s.br).take scale) * range := by omega
  have complete (i : Nat) : i < m ↔ (i + 1) * range ≤ (readableBits s.br).length - scale := Nat.le_div_iff_mul_le rangeMin
  obtain ⟨t, run, ended, ebr⟩ :=
    runReader_of_not_readable accepts (semRlpb_delivers scaleMin scaleMax rangeMin rangeMax s.br) short
  refine ⟨t, run, ended, fun i lt => ?_, fun i ge => ?_⟩
  · have fits := (complete i).1 lt
    have announced : i < bitsToNat ((readableBits s.br).take scale) := by
      refine Nat.lt_of_mul_lt_mul_right (a := range) ?_
      rw [Nat.succ_mul] at fits
      omega
    rw [ebr, memPeek_ebrAfterRlpb, if_pos ⟨announced, fits⟩]
  · rw [ebr, memPeek_ebrAfterRlpb, if_neg fun h => ge.not_gt ((complete i).2 h.2)]

/-! ### Discarding (R187, R188) -/

/-- Taking all flags that are left only moves the cursor. -/
theorem rTake_to_boundary (n v : Nat) {r : Reader} (all : r.cur.val + n = 8) : (rTake n v r).2 = { r with cur := 8 } := by
  induction n generalizing v r with
  | zero =>
    have empty : r.cur = 8 := Fin.ext all
    rw [rTake, ← empty]
  | succ n ih => exact ih _ (by simp only [nextCur_val r.cur (by omega)]; omega)

/-- Dropping the buffered bits makes no pull (R188). -/
theorem rDropBuffered_eq (r : Reader) : rDropBuffered r = .done () { r with cur := 8 } := by
  unfold rDropBuffered
  split
  · rename_i buffered
    rw [rBits8_eq_rGetBits (by omega) (by omega), rGetBits, rGetBitsFrom_of_buffered _ _ _ (by omega), Res.bind_done,
      rTake_to_boundary _ _ (by omega)]
  · have full : r.cur.val = 8 := by omega
    rw [← (Fin.ext full : r.cur = 8)]

theorem rDropBuffered_delivers (r : Reader) : Delivers (bufferedBits r) (fun _ => ()) r (rDropBuffered r) := by
  unfold rDropBuffered bufferedBits
  split
  · rw [rBits8_eq_rGetBits (by omega) (by omega)]
    exact (rGetBits_delivers (8 - r.cur.val) r).map fun _ => ()
  · rw [show 8 - r.cur.val = 0 by omega]
    exact Delivers.nothing r ()

theorem rDiscardBytes_delivers (k : Nat) (r : Reader) : Delivers (8 * k) (fun _ => ()) r (rDiscardBytes k r) := by
  induction k generalizing r with
  | zero => exact Delivers.nothing r ()
  | succ k ih =>
    rw [Nat.mul_succ, Nat.add_comm, rDiscardBytes, rBits8_eq_rGetBits (by decide) le_rfl]
    exact (rGetBits_delivers 8 r).bind (fun _ => rfl) fun enough r₁ read => (ih r₁).after read enough

/-- The bits RALIGN discards for boundary `bd` (R187, R257). -/
def bitsToBoundary (bd : Nat) (r : Reader) : Nat := bufferedBits r + 8 * bytesToBoundary bd r.cnt

/-- RALIGN is a read of the bits it discards: the counter it looks at is the one from before, because dropping the buffered
bits makes no pull. -/
theorem semRalign_delivers {opv : Word64} (pos : 0 < opvInt32 opv) (r : Reader) :
    Delivers (bitsToBoundary (opvInt32 opv).toNat r) (fun _ => zext64 (bitsToBoundary (opvInt32 opv).toNat r)) r
      (semRalign opv r) := by
  have discards : semRalign opv r = (rDropBuffered r).bind fun _ r' =>
      (rDiscardBytes (bytesToBoundary (opvInt32 opv).toNat r.cnt) r').bind fun _ r'' =>
        .done (zext64 (bitsToBoundary (opvInt32 opv).toNat r)) r'' := by
    simp [semRalign, rDropBuffered_eq, pos.not_ge, bitsToBoundary]
  rw [discards]
  exact (rDropBuffered_delivers r).seq (rDiscardBytes_delivers _) fun _ _ => _

/-- The byte count at the boundary (R257). -/
theorem add_bytesToBoundary_mod {bd : Nat} (pos : 0 < bd) (cnt : Nat) : (cnt + bytesToBoundary bd cnt) % bd = 0 := by
  have boundary : cnt + (bd - cnt % bd) = bd * (cnt / bd + 1) := by
    have below := Nat.mod_lt cnt pos
    have whole := Nat.div_add_mod cnt bd
    rw [Nat.mul_succ]
    omega
  rw [bytesToBoundary, Nat.add_mod_mod, boundary, Nat.mul_mod_right]

/-- Consuming the bits up to the boundary leaves no bit buffered and the counter aligned. -/
theorem ConsumesBits.at_boundary {bd : Nat} {r r' : Reader} (h : ConsumesBits (bitsToBoundary bd r) r r') (pos : 0 < bd) :
    r'.cur.val = 8 ∧ r'.cnt % bd = 0 := by
  have position := h.position
  have count : r'.cnt = r.cnt + bytesToBoundary bd r.cnt := by
    rw [h.count, pullsFor, bitsToBoundary, bufferedBits]
    omega
  refine ⟨?_, by rw [count, add_bytesToBoundary_mod pos]⟩
  rw [count, bitsToBoundary, bufferedBits] at position
  omega

/-- Settles O19: RALIGN reads the bits it discards, and `ConsumesBits` places BR. -/
theorem readerAlignDiscardsToTheBoundary : Obligations.ReaderAlignDiscardsToTheBoundary := by
  unfold Obligations.ReaderAlignDiscardsToTheBoundary
  intro s accepts pos bd bits enough
  obtain ⟨t, run, response, consumes, ebr, frame⟩ := runReader_of_readable accepts (semRalign_delivers pos s.br) enough
  obtain ⟨cursor, aligned⟩ := consumes.at_boundary (by omega)
  exact ⟨t, run, response, consumes, cursor, aligned, ebr, frame⟩

/-- Settles O20: a read that finds too few bits, as any other. -/
theorem readerAlignStopsAtTheSourceEnd : Obligations.ReaderAlignStopsAtTheSourceEnd := by
  unfold Obligations.ReaderAlignStopsAtTheSourceEnd
  intro s accepts pos bd short
  exact runReader_of_not_readable accepts (semRalign_delivers pos s.br) short

/-- RCLOSE makes no transfer before the close of its channel. -/
theorem semRclose_eq (r : Reader) :
    semRclose r = (rCloseChannel { r with cur := 8 }).bind fun _ r' => .done 0 r' := by
  rw [semRclose, rDropBuffered_eq, Res.bind_done]

/-- Settles O21: no bit is pulled, and the answer of the close decides. -/
theorem readerCloseAlignsAndCloses : Obligations.ReaderCloseAlignsAndCloses := by
  unfold Obligations.ReaderCloseAlignsAndCloses
  intro s accepts
  simp only [exec, execRclose, runReader, accepts, semRclose_eq, rCloseChannel_eq]
  cases s.br.src.closeAnswers.headD .ok with
  | ok => rfl
  | fail code => rfl
  | noAnswer => rfl

end Sys2Proof.Machine
end

section
/-!
PROOF. The bits of an integer in stream order (R10, R64, R65): how they split, what their readings give back, and the
byte they spell.
-/
namespace Sys2Proof.Machine

/-! ### The low-order bits of an integer -/

theorem asr_succ (v : Int) (n : Nat) : asr v (n + 1) = asr v n / 2 := by
  rw [← asr_asr]
  rfl

theorem bitOf_toNat (v : Int) (i : Nat) : ((bitOf v i).toNat : Int) = asr v i % 2 := by
  unfold bitOf
  obtain even | odd : asr v i % 2 = 0 ∨ asr v i % 2 = 1 := by omega
  · simp [even]
  · simp [odd]

theorem low_add_mul_asr (v : Int) (n : Nat) : low v n + 2 ^ n * asr v n = v := by
  simpa [low, asr] using Int.emod_add_mul_ediv v (2 ^ n)

/-- `bit(v, n)` stands above the low `n` bits. -/
theorem low_succ (v : Int) (n : Nat) : low v (n + 1) = (bitOf v n).toNat * 2 ^ n + low v n := by
  obtain ⟨nonneg, below⟩ := low_range v n
  have whole := low_add_mul_asr v n
  have flag : asr v n = 2 * asr v (n + 1) + (bitOf v n).toNat := by
    rw [asr_succ, bitOf_toNat]
    omega
  have double : ((2 ^ (n + 1) : Nat) : Int) = 2 ^ n * 2 := by
    push_cast
    exact pow_succ 2 n
  refine ((Int.ediv_emod_unique (q := asr v (n + 1)) (by positivity)).2 ⟨?_, ?_, ?_⟩).2
  · rw [double]
    linear_combination whole - 2 ^ n * flag
  · positivity
  · rw [double]
    cases bitOf v n <;> simp <;> omega

/-- The bits below `n` do not depend on what stands from `n` on. -/
theorem bitOf_low {n i : Nat} (h : i < n) (v : Int) : bitOf (low v n) i = bitOf v i := by
  obtain ⟨k, rfl⟩ := Nat.exists_eq_add_of_lt h
  have whole : v = low v (i + k + 1) + 2 ^ i * (2 * (2 ^ k * asr v (i + k + 1))) := by
    linear_combination -low_add_mul_asr v (i + k + 1)
  have shifted : asr v i = asr (low v (i + k + 1)) i + 2 * (2 ^ k * asr v (i + k + 1)) := by
    conv_lhs => rw [whole]
    simp only [asr]
    push_cast
    exact Int.add_mul_ediv_left _ _ (by positivity)
  unfold bitOf
  rw [shifted, Int.add_mul_emod_self_left]

/-! ### The bits in stream order -/

/-- The high `m` of `m + n` bits come first (R65). -/
theorem intBits_add (m n : Nat) (v : Int) : intBits (m + n) v = intBits m (asr v n) ++ intBits n v := by
  induction m with
  | zero => simp [intBits]
  | succ m ih => rw [Nat.succ_add, intBits, intBits, ih, bitOf_asr, Nat.add_comm n m, List.cons_append]

theorem intBits_low {m n : Nat} (h : m ≤ n) (v : Int) : intBits m (low v n) = intBits m v := by
  induction m with
  | zero => rfl
  | succ m ih => rw [intBits, intBits, bitOf_low h, ih (Nat.le_of_succ_le h)]

/-- The unsigned reading of the low `n` bits (R10, R65). -/
theorem bitsToNat_intBits (n : Nat) (v : Int) : (bitsToNat (intBits n v) : Int) = low v n := by
  induction n with
  | zero => simp [intBits, bitsToNat, low]
  | succ n ih =>
    rw [intBits, bitsToNat_cons, intBits_length, low_succ, ← ih]
    push_cast
    rfl

theorem low_eq_self {n : Nat} {v : Int} (nonneg : 0 ≤ v) (below : v < 2 ^ n) : low v n = v :=
  Int.emod_eq_of_lt nonneg (by simpa using below)

/-- The two's-complement reading of the low `n + 1` bits gives back a value that has that many (R10, R65). -/
theorem bitsToInt_intBits {n : Nat} {v : Int} (min : -2 ^ n ≤ v) (max : v < 2 ^ n) :
    bitsToInt (intBits (n + 1) v) = v := by
  have whole := low_add_mul_asr v n
  rw [intBits, bitsToInt, intBits_length, bitsToNat_intBits]
  rcases lt_or_ge v 0 with neg | nonneg
  · have sign : asr v n = -1 := by
      refine ((Int.ediv_emod_unique (r := v + 2 ^ n) (by positivity)).2 ⟨by push_cast; ring, by omega, ?_⟩).1
      push_cast
      omega
    have flag : bitOf v n = true := by simp [bitOf, sign]
    rw [flag, if_pos rfl]
    push_cast
    linear_combination whole - 2 ^ n * sign
  · have sign : asr v n = 0 := Int.ediv_eq_zero_of_lt nonneg (by simpa using max)
    have flag : bitOf v n = false := by simp [bitOf, sign]
    rw [flag, if_neg Bool.false_ne_true]
    linear_combination whole - 2 ^ n * sign

/-! ### Bytes -/

/-- The byte with the low eight bits of `v` spells them (R9, R64). -/
theorem byteBits_ofInt (v : Int) : byteBits (BitVec.ofInt 8 v) = intBits 8 v := by
  have flag : ∀ i < 8, (BitVec.ofInt 8 v).getLsbD i = bitOf v i := fun i lt => by
    have nonneg := (low_range v 8).1
    rw [← bitOf_low lt, BitVec.getLsbD, BitVec.toNat_ofInt, Nat.testBit_eq_decide_div_mod_eq, bitOf, asr]
    change decide ((low v 8).toNat / 2 ^ i % 2 = 1) = _
    rw [decide_eq_decide, ← Int.toNat_of_nonneg nonneg]
    norm_cast
  simp only [byteBits, flagsOf, Vector.toList_mk, intBits, flag, Nat.reduceLT]

theorem byteBits_byteOf (w : Window) : byteBits (byteOf w) = w.toList := by rw [byteBits, flagsOf_byteOf]

theorem byteBits_injective : Function.Injective byteBits := by
  intro b c same
  have flags : flagsOf b = flagsOf c := Vector.toList_inj.1 same
  refine BitVec.eq_of_getLsbD_eq fun i lt => ?_
  simp only [flagsOf, Vector.mk.injEq, Array.mk.injEq, List.cons.injEq] at flags
  obtain ⟨h7, h6, h5, h4, h3, h2, h1, h0, -⟩ := flags
  interval_cases i <;> assumption

theorem flatMap_byteBits_length (bytes : List Byte) : (bytes.flatMap byteBits).length = 8 * bytes.length := by
  induction bytes with
  | nil => rfl
  | cons b bytes ih => rw [List.flatMap_cons, List.length_append, byteBits_length, ih, List.length_cons, Nat.mul_succ,
      Nat.add_comm]

/-- The bits in stream order determine the bytes. -/
theorem flatMap_byteBits_injective : Function.Injective fun bytes : List Byte => bytes.flatMap byteBits := by
  intro xs ys same
  induction xs generalizing ys with
  | nil =>
    have len := congrArg List.length same
    simp only [flatMap_byteBits_length, List.length_nil] at len
    exact (List.eq_nil_of_length_eq_zero (by omega)).symm
  | cons x xs ih =>
    cases ys with
    | nil => simpa [flatMap_byteBits_length] using congrArg List.length same
    | cons y ys =>
      simp only [List.flatMap_cons] at same
      obtain ⟨head, tail⟩ := List.append_inj same (by simp)
      rw [byteBits_injective head, ih tail]

end Sys2Proof.Machine
end

section
/-!
PROOF. What a write does, said once for every write of BW: `Produces` is the triple of a piece of pseudocode that writes
`bits`. Either the sink accepts the pushes it needs, and it writes exactly them (R67, R79), or it stops at the first
push that is not answered Ok (R226, R283). Triples follow one another, so the chunked writes have one at every length.
-/
namespace Sys2Proof.Machine

/-! ### The answers of a sink -/

/-- The pushes of two writes, of which the second starts at the sink as the first left it. -/
theorem acceptsPushes_add {m n : Nat} {w w₁ : Writer} (rest : w₁.snk.pushAnswers = w.snk.pushAnswers.drop m) :
    acceptsPushes (m + n) w ↔ acceptsPushes m w ∧ acceptsPushes n w₁ := by
  simp [acceptsPushes, rest, List.take_add, or_imp, forall_and]

/-- The sink accepts `k` pushes and answers the next one with `a`, not Ok. -/
structure Writer.RefusesPush (w : Writer) (k : Nat) (a : Ack) : Prop where
  accepts : acceptsPushes k w
  answer : w.snk.pushAnswers[k]? = some a
  notOk : a ≠ .ok

theorem Writer.RefusesPush.not_acceptsPushes {w : Writer} {k n : Nat} {a : Ack} (h : w.RefusesPush k a) (lt : k < n) :
    ¬ acceptsPushes n w := by
  intro accepts
  refine h.notOk (accepts a (List.mem_of_getElem? (i := k) ?_))
  rw [List.getElem?_take_of_lt lt, h.answer]

theorem Writer.RefusesPush.unique {w : Writer} {k k' : Nat} {a a' : Ack} (h : w.RefusesPush k a)
    (g : w.RefusesPush k' a') : k = k' ∧ a = a' := by
  have same : k = k' := by
    rcases Nat.lt_trichotomy k k' with lt | eq | gt
    · exact absurd g.accepts (h.not_acceptsPushes lt)
    · exact eq
    · exact absurd h.accepts (g.not_acceptsPushes gt)
  subst same
  exact ⟨rfl, Option.some.inj (h.answer.symm.trans g.answer)⟩

/-- The next push is accepted or not. -/
theorem firstPush_cases (w : Writer) :
    (w.snk.pushAnswers.headD .ok = .ok ∧ acceptsPushes 1 w) ∨ w.RefusesPush 0 (w.snk.pushAnswers.headD .ok) := by
  by_cases ok : w.snk.pushAnswers.headD .ok = .ok
  · refine .inl ⟨ok, ?_⟩
    cases answers : w.snk.pushAnswers <;> simp_all [acceptsPushes]
  · refine .inr ⟨by simp [acceptsPushes], ?_, ok⟩
    cases answers : w.snk.pushAnswers <;> simp_all

/-! ### How a write leaves BW -/

/-- BW after a write of `bits` that stopped at the push after `k` accepted ones: `ERR` stays until the wrapper records
the error (R110). -/
structure Writer.StoppedAt (bits : List Bool) (k : Nat) (a : Ack) (w w' : Writer) : Prop where
  needed : k < pushesFor bits.length w
  refuses : w.RefusesPush k a
  fails : FailsAtPush bits k a w w'
  err : w'.err = w.err

/-- How a write of `bits` from `w` ends at a push that is not answered Ok. -/
def Writer.stopped (bits : List Bool) (w : Writer) : Leaves Writer where
  done _ := True
  raised e w' := ∃ k code, e = .channelIOFailure code ∧ w.StoppedAt bits k (.fail code) w'
  hung w' := ∃ k, w.StoppedAt bits k .noAnswer w'

/-- `x` writes `bits` from `w` and returns `v`, if the sink accepts the pushes. -/
def Produces {α : Type} (bits : List Bool) (v : α) (w : Writer) (x : Res Writer α) : Prop :=
  x.EndsIn (fun v' w' => v' = v ∧ acceptsPushes (pushesFor bits.length w) w ∧ ProducesBits bits w w') (w.stopped bits)

theorem pendingBits_length (w : Writer) : (pendingBits w).length = w.cur.val := by
  rw [pendingBits, List.length_take, Vector.length_toList]
  omega

section
variable {α β : Type} {xs ys bits : List Bool} {b : Bool} {k : Nat} {a : Ack} {w w₁ w₂ : Writer}

theorem ProducesBits.cur_eq (h : ProducesBits bits w w₁) : w₁.cur.val = (w.cur.val + bits.length) % 8 := by
  have position := h.position
  have count := h.count
  unfold pushesFor at count
  omega

/-- A write leaves no full window. -/
theorem ProducesBits.cur_lt (h : ProducesBits bits w w₁) : w₁.cur.val < 8 := by
  rw [h.cur_eq]
  omega

/-- The bytes pushed and the bits still pending are the bits pending before and those written. -/
theorem ProducesBits.exists_bytes (h : ProducesBits bits w w₁) :
    ∃ bytes, bytes.length = pushesFor bits.length w ∧ w₁.snk.events = w.snk.events ++ okPushes bytes ∧
      pendingBits w ++ bits = bytes.flatMap byteBits ++ pendingBits w₁ := by
  obtain ⟨bytes, len, events⟩ := h.events
  have stream := h.stream
  simp only [writtenBits, events, pushedBytes_append, pushedBytes_okPushes, List.flatMap_append,
    List.append_assoc] at stream
  exact ⟨bytes, len, events, (List.append_cancel_left stream).symm⟩

/-! ### Sequencing -/

theorem ProducesBits.pushesFor_append (h : ProducesBits xs w w₁) :
    pushesFor (xs ++ ys).length w = pushesFor xs.length w + pushesFor ys.length w₁ := by
  have cursor := h.cur_eq
  simp only [pushesFor, List.length_append]
  omega

theorem pushesFor_zero (room : w.cur.val < 8) : pushesFor 0 w = 0 := Nat.div_eq_of_lt room

theorem ProducesBits.nothing (room : w.cur.val < 8) : ProducesBits [] w w := by
  constructor
  case events => exact ⟨[], by simp [pushesFor_zero room], by simp [okPushes]⟩
  all_goals simp [pushesFor_zero room]

/-- A write that stopped would have stopped there with more bits to come. -/
theorem Writer.StoppedAt.append (h : w.StoppedAt xs k a w₁) (ys : List Bool) : w.StoppedAt (xs ++ ys) k a w₁ := by
  have needed := h.needed
  obtain ⟨bytes, b, len, events, spelled⟩ := h.fails.events
  unfold pushesFor at needed
  have inside : 8 * (k + 1) ≤ (pendingBits w ++ xs).length := by
    rw [List.length_append, pendingBits_length]
    omega
  refine ⟨?_, h.refuses, { h.fails with events := ⟨bytes, b, len, events, ?_⟩ }, h.err⟩
  · rw [pushesFor, List.length_append]
    omega
  · rw [← List.append_assoc, List.take_append_of_le_length inside, spelled]

/-- A stop in the second of two writes. -/
theorem ProducesBits.stoppedAt (h : ProducesBits xs w w₁) (accepts : acceptsPushes (pushesFor xs.length w) w)
    (g : w₁.StoppedAt ys k a w₂) : w.StoppedAt (xs ++ ys) (pushesFor xs.length w + k) a w₂ := by
  obtain ⟨bytes, len, events, spelled⟩ := h.exists_bytes
  obtain ⟨bytes', b, len', events', spelled'⟩ := g.fails.events
  have history : w₂.snk.events = w.snk.events ++ okPushes (bytes ++ bytes') ++ [.push b a] := by
    rw [events', events]
    simp [okPushes]
  have all : (bytes ++ bytes' ++ [b]).flatMap byteBits =
      (pendingBits w ++ (xs ++ ys)).take (8 * (pushesFor xs.length w + k + 1)) := by
    have front : 8 * (pushesFor xs.length w + k + 1) = (bytes.flatMap byteBits).length + 8 * (k + 1) := by
      rw [flatMap_byteBits_length, len]
      ring
    rw [List.append_assoc bytes, List.flatMap_append, spelled', ← List.append_assoc (pendingBits w), spelled, front,
      List.append_assoc _ (pendingBits w₁), List.take_length_add_append]
  refine ⟨?_, ⟨(acceptsPushes_add h.answers).2 ⟨accepts, g.refuses.accepts⟩, ?_, g.refuses.notOk⟩, ?_,
    g.err.trans h.err⟩
  · rw [h.pushesFor_append]
    exact Nat.add_lt_add_left g.needed _
  · rw [← List.getElem?_drop, ← h.answers, g.refuses.answer]
  · exact
      { count := by rw [g.fails.count, h.count, Nat.add_assoc]
        cursor := g.fails.cursor
        answers := by rw [g.fails.answers, h.answers, List.drop_drop, Nat.add_assoc]
        events := ⟨bytes ++ bytes', b, by rw [List.length_append, len, len'], history, all⟩
        closeAnswers := g.fails.closeAnswers.trans h.closeAnswers
        past := g.fails.past.trans h.past
        ebw := g.fails.ebw.trans h.ebw
        closed := g.fails.closed.trans h.closed }

/-- What writes no bits. -/
theorem Produces.nothing (v : α) (room : w.cur.val < 8) : Produces [] v w (.done v w) := by
  refine ⟨rfl, ?_, .nothing room⟩
  simp [acceptsPushes, pushesFor_zero room]

/-- One write after another writes the bits of both. -/
theorem Produces.seq {u : α} {v : β} {x : Res Writer α} {y : α → Writer → Res Writer β} (first : Produces xs u w x)
    (next : ∀ w₁, ProducesBits xs w w₁ → Produces ys v w₁ (y u w₁)) : Produces (xs ++ ys) v w (x.bind y) := by
  refine Res.EndsIn.bind (first.mono (fun _ _ h => h) ?_ ?_) ?_
  · exact fun _ _ ⟨k, code, cause, stopped⟩ => ⟨k, code, cause, stopped.append ys⟩
  · exact fun _ ⟨k, stopped⟩ => ⟨k, stopped.append ys⟩
  rintro _ w₁ - ⟨rfl, accepts, written⟩
  refine (next w₁ written).mono ?_ ?_ ?_
  · rintro _ w₂ ⟨rfl, accepts', written'⟩
    refine ⟨rfl, ?_, written.trans written'⟩
    rw [written.pushesFor_append]
    exact (acceptsPushes_add written.answers).2 ⟨accepts, accepts'⟩
  · exact fun _ _ ⟨k, code, cause, stopped⟩ => ⟨_, code, cause, written.stoppedAt accepts stopped⟩
  · exact fun _ ⟨k, stopped⟩ => ⟨_, written.stoppedAt accepts stopped⟩

/-- What is returned may be replaced at the end. -/
theorem Produces.returning {u : α} {x : Res Writer α} (h : Produces bits u w x) (v : β) :
    Produces bits v w (x.bind fun _ w₁ => .done v w₁) :=
  Res.EndsIn.bind h fun _ _ _ ⟨_, accepts, written⟩ => ⟨rfl, accepts, written⟩

/-! ### The window -/

theorem wPutFlag_cur (b : Bool) (room : w.cur.val < 8) : (wPutFlag b w).cur.val = w.cur.val + 1 :=
  nextCur_val w.cur room

theorem pushesFor_wPutFlag (b : Bool) (room : w.cur.val < 8) :
    pushesFor (b :: bits).length w = pushesFor bits.length (wPutFlag b w) := by
  rw [pushesFor, pushesFor, wPutFlag_cur b room, List.length_cons, Nat.add_assoc, Nat.add_comm 1]

theorem writtenBits_wPutFlag (b : Bool) (room : w.cur.val < 8) : writtenBits (wPutFlag b w) = writtenBits w ++ [b] := by
  rw [writtenBits, writtenBits, List.append_assoc]
  exact congrArg _ (pendingBits_wPutFlag b w room)

/-- A flag put into the window is a bit written before the others. -/
theorem ProducesBits.put (room : w.cur.val < 8) (h : ProducesBits bits (wPutFlag b w) w₁) :
    ProducesBits (b :: bits) w w₁ where
  stream := by rw [h.stream, writtenBits_wPutFlag b room, List.append_assoc, List.singleton_append]
  position := by
    have same : (wPutFlag b w).cnt = w.cnt := rfl
    rw [h.position, wPutFlag_cur b room, same, List.length_cons]
    omega
  count := by rw [h.count, pushesFor_wPutFlag b room]; rfl
  answers := by rw [h.answers, pushesFor_wPutFlag b room]; rfl
  events := by rw [pushesFor_wPutFlag b room]; exact h.events
  closeAnswers := h.closeAnswers
  past := h.past
  ebw := h.ebw
  err := h.err
  closed := h.closed

theorem Writer.StoppedAt.put (room : w.cur.val < 8) (h : (wPutFlag b w).StoppedAt bits k a w₁) :
    w.StoppedAt (b :: bits) k a w₁ := by
  have pending : pendingBits w ++ b :: bits = pendingBits (wPutFlag b w) ++ bits := by
    rw [pendingBits_wPutFlag b w room, List.append_assoc, List.singleton_append]
  have fails := h.fails
  exact ⟨pushesFor_wPutFlag b room ▸ h.needed, ⟨h.refuses.accepts, h.refuses.answer, h.refuses.notOk⟩,
    ⟨fails.count, fails.cursor, fails.answers, pending ▸ fails.events, fails.closeAnswers, fails.past, fails.ebw,
      fails.closed⟩, h.err⟩

theorem Produces.put {v : α} {x : Res Writer α} (room : w.cur.val < 8) (h : Produces bits v (wPutFlag b w) x) :
    Produces (b :: bits) v w x := by
  refine Res.EndsIn.mono h ?_ ?_ ?_
  · exact fun _ _ ⟨value, accepts, written⟩ => ⟨value, pushesFor_wPutFlag b room ▸ accepts, written.put room⟩
  · exact fun _ _ ⟨k, code, cause, stopped⟩ => ⟨k, code, cause, stopped.put room⟩
  · exact fun _ ⟨k, stopped⟩ => ⟨k, stopped.put room⟩

end

/-! ### The push -/

/-- `SinkPush(b)` with what the flush and the fast path make of its answer (R210, R212). -/
def pushByte (b : Byte) (w : Writer) : Res Writer Unit :=
  let a := w.snk.pushAnswers.headD .ok
  let k := { w.snk with pushAnswers := w.snk.pushAnswers.tail, events := w.snk.events ++ [.push b a] }
  match a with
  | .ok => .done () { w with cnt := w.cnt + 1, cur := 0, snk := k }
  | .fail code => .raise (.channelIOFailure code) { w with snk := k }
  | .noAnswer => .hang { w with snk := k }

theorem wFlush_eq_pushByte (w : Writer) : wFlush w = pushByte (byteOf w.win) w := wFlush_eq w

theorem wFastPath_eq_pushByte (v : Int) {w : Writer} (empty : w.cur.val = 0) :
    wFastPath v w = pushByte (BitVec.ofInt 8 v) w := by
  obtain ⟨win, cur, cnt, err, closed, ebw, snk⟩ := w
  obtain rfl : cur = 0 := Fin.ext empty
  exact wFastPath_eq v _

section
variable {bits : List Bool} {b : Byte} {w : Writer}

/-- A push that completes a byte, from a full window or from an empty one. -/
theorem pushByte_produces (start : w.cur.val = 8 ∨ w.cur.val = 0) (spelled : pendingBits w ++ bits = byteBits b) :
    Produces bits () w (pushByte b w) := by
  have total : w.cur.val + bits.length = 8 := by
    rw [← pendingBits_length, ← List.length_append, spelled, byteBits_length]
  have pushes : pushesFor bits.length w = 1 := by rw [pushesFor, total]
  obtain ⟨ok, accepts⟩ | refuses := firstPush_cases w
  · simp only [pushByte, ok]
    refine ⟨rfl, by rwa [pushes], ?_⟩
    constructor
    case stream => simp [writtenBits, List.append_assoc, ← spelled, pendingBits]
    case position =>
      change 8 * (w.cnt + 1) + 0 = _
      omega
    case events => exact ⟨[b], by simp [pushes], by simp [okPushes]⟩
    all_goals simp [pushes]
  · have stopped : w.StoppedAt bits 0 (w.snk.pushAnswers.headD .ok) { w with snk := { w.snk with
        pushAnswers := w.snk.pushAnswers.tail
        events := w.snk.events ++ [.push b (w.snk.pushAnswers.headD .ok)] } } := by
      refine ⟨by rw [pushes]; exact Nat.one_pos, refuses, ?_, rfl⟩
      constructor
      case cursor => exact start
      case events =>
        refine ⟨[], b, rfl, by simp [okPushes], ?_⟩
        rw [spelled, List.take_of_length_le (by simp)]
        simp
      all_goals simp
    unfold pushByte
    simp only
    split
    · exact absurd ‹_› refuses.notOk
    · exact ⟨0, _, rfl, ‹_› ▸ stopped⟩
    · exact ⟨0, ‹_› ▸ stopped⟩

/-- The flush of a full window writes nothing new: its bits were written before. -/
theorem wFlushIfFull_produces (w : Writer) : Produces [] () w (wFlushIfFull w) := by
  rcases Nat.lt_or_ge w.cur.val 8 with room | ge
  · rw [wFlushIfFull_of_lt w room]
    exact .nothing () room
  · have full : w.cur.val = 8 := by omega
    rw [wFlushIfFull_of_eq w full, wFlush_eq_pushByte]
    refine pushByte_produces (.inl full) ?_
    rw [byteBits_byteOf, pendingBits, full, List.append_nil, List.take_of_length_le (by simp)]

theorem wFastPath_produces (v : Int) (empty : w.cur.val = 0) : Produces (intBits 8 v) () w (wFastPath v w) := by
  rw [wFastPath_eq_pushByte v empty]
  refine pushByte_produces (.inr empty) ?_
  rw [byteBits_ofInt, pendingBits, empty, List.take_zero, List.nil_append]

/-! ### The bit, the serial write and the chunked writes -/

/-- R210: a full window is flushed before the bit and after it. -/
theorem wBit_produces (flag : Bool) (w : Writer) : Produces [flag] () w (wBit flag w) :=
  (wFlushIfFull_produces w).seq fun _ flushed => .put flushed.cur_lt (wFlushIfFull_produces _)

/-- R211: the serial write, which flushes a full window only if it has a bit to write. -/
theorem wPutBits_produces (n : Nat) (v : Int) {w : Writer} (start : w.cur.val < 8 ∨ 1 ≤ n) :
    Produces (intBits n v) () w (wPutBits n v w) := by
  induction n generalizing w with
  | zero => exact .nothing () (by simpa using start)
  | succ n ih => exact (wBit_produces (bitOf v n) w).seq fun _ written => ih (.inl written.cur_lt)

/-- R212: a piece that does not straddle. -/
theorem wPiece_produces (n : Nat) (v : Int) {w : Writer} (fits : w.cur.val + n ≤ 8) :
    Produces (intBits n v) () w (wPiece n v w) := by
  induction n generalizing w with
  | zero => exact wFlushIfFull_produces w
  | succ n ih =>
    have room : w.cur.val < 8 := by omega
    exact .put room (ih (by rw [wPutFlag_cur _ room]; omega))

/-- R212: the byte chunk, straddling two bytes or not. -/
theorem wBits8_produces {n : Nat} (pos : 1 ≤ n) (max : n ≤ 8) (v : Int) (w : Writer) :
    Produces (intBits n v) () w (wBits8 n v w) := by
  unfold wBits8
  split
  · rename_i fast
    rw [fast.2]
    exact wFastPath_produces v fast.1
  split
  · obtain ⟨k, total⟩ : ∃ k, n = (8 - w.cur.val) + k := Nat.exists_eq_add_of_le (by omega)
    rw [total, Nat.add_sub_cancel_left, intBits_add]
    refine (wPiece_produces _ _ (by omega)).seq fun w' written => ?_
    have boundary : w'.cur.val = 0 := by
      rw [written.cur_eq, intBits_length]
      omega
    rw [← intBits_low le_rfl]
    exact wPiece_produces _ _ (by omega)
  · exact wPiece_produces n v (by omega)

/-- The loop over whole chunks. -/
theorem wRepeat_produces {chunk : Int → Writer → Res Writer Unit} {width : Nat}
    (produces : ∀ v w, Produces (intBits width v) () w (chunk v w)) (v : Int) (q : Nat) {w : Writer}
    (start : w.cur.val < 8 ∨ 1 ≤ q) : Produces (intBits (width * q) v) () w (wRepeat chunk width v q w) := by
  induction q generalizing w with
  | zero => exact .nothing () (by simpa using start)
  | succ q ih =>
    rw [Nat.mul_succ, Nat.add_comm, intBits_add, ← intBits_low le_rfl (asr v _)]
    exact (produces _ w).seq fun _ written => ih (.inl written.cur_lt)

/-- The partial chunk and then the whole chunks (R213 to R215). -/
theorem chunked_produces {op : Nat → Int → Writer → Res Writer Unit} {width : Nat} (widthPos : 1 ≤ width)
    (produces : ∀ n, 1 ≤ n → n ≤ width → ∀ v w, Produces (intBits n v) () w (op n v w)) {len : Nat} (pos : 1 ≤ len)
    (v : Int) (w : Writer) :
    Produces (intBits len v) () w
      ((if 0 < len % width then op (len % width) (low (asr v (width * (len / width))) (len % width)) w
        else .done () w).bind fun _ w' => wRepeat (op width) width v (len / width) w') := by
  have whole := Nat.mod_add_div len width
  have wholeChunks {w' : Writer} := wRepeat_produces (w := w') (produces width widthPos le_rfl) v (len / width)
  split
  · rename_i more
    have split : intBits len v = intBits (len % width) (low (asr v (width * (len / width))) (len % width)) ++
        intBits (width * (len / width)) v := by
      rw [intBits_low le_rfl, ← intBits_add, whole]
    rw [split]
    exact (produces _ more (Nat.mod_lt _ widthPos).le _ w).seq fun _ written => wholeChunks (.inl written.cur_lt)
  · rw [show intBits len v = intBits (width * (len / width)) v by congr 1; omega, Res.bind_done]
    refine wholeChunks (.inr (Nat.one_le_iff_ne_zero.2 fun none => ?_))
    rw [none] at whole
    omega

end

section
variable {len : Nat} (pos : 1 ≤ len) (v : Int) (w : Writer)
include pos

theorem wU16_produces : Produces (intBits len v) () w (wU16 len v w) :=
  chunked_produces (by decide) (fun _ pos max => wBits8_produces pos max) pos v w

theorem wU32_produces : Produces (intBits len v) () w (wU32 len v w) :=
  chunked_produces (by decide) (fun _ pos _ => wU16_produces pos) pos v w

theorem wU64_produces : Produces (intBits len v) () w (wU64 len v w) :=
  chunked_produces (by decide) (fun _ pos _ => wU32_produces pos) pos v w

end

end Sys2Proof.Machine
end

section
/-!
PROOF. The chunked writes do what the serial write does (R216): the triple of a write leaves open nothing but the dead
flags of the window and, after a failed push, the cursor.
-/
namespace Sys2Proof.Machine

theorem Sink.ext_fields {k k' : Sink} (pushAnswers : k.pushAnswers = k'.pushAnswers)
    (closeAnswers : k.closeAnswers = k'.closeAnswers) (events : k.events = k'.events) (past : k.past = k'.past) :
    k = k' := by
  cases k
  cases k'
  simp_all

section
variable {bits : List Bool} {k : Nat} {a : Ack} {w w₁ w₂ : Writer}

/-- Two writes of the same bits push the same bytes and leave the same bits pending. -/
theorem ProducesBits.unique (h : ProducesBits bits w w₁) (g : ProducesBits bits w w₂) :
    w₁ = { w₂ with win := w₁.win } ∧ pendingBits w₁ = pendingBits w₂ := by
  obtain ⟨bytes, len, events, spelled⟩ := h.exists_bytes
  obtain ⟨bytes', len', events', spelled'⟩ := g.exists_bytes
  obtain ⟨pushed, pending⟩ := List.append_inj (spelled.symm.trans spelled')
    (by rw [flatMap_byteBits_length, flatMap_byteBits_length, len, len'])
  have snk : w₁.snk = w₂.snk := Sink.ext_fields (h.answers.trans g.answers.symm)
    (h.closeAnswers.trans g.closeAnswers.symm) (by rw [events, events', flatMap_byteBits_injective pushed])
    (h.past.trans g.past.symm)
  have cur : w₁.cur = w₂.cur := Fin.ext (h.cur_eq.trans g.cur_eq.symm)
  have cnt := h.count.trans g.count.symm
  have err := h.err.trans g.err.symm
  have closed := h.closed.trans g.closed.symm
  have ebw := h.ebw.trans g.ebw.symm
  refine ⟨?_, pending⟩
  cases w₁
  cases w₂
  simp_all

/-- Two writes of the same bits that stop at a push have tried to push the same bytes. -/
theorem FailsAtPush.unique (h : FailsAtPush bits k a w w₁) (g : FailsAtPush bits k a w w₂) :
    w₁.snk = w₂.snk ∧ w₁.cnt = w₂.cnt := by
  obtain ⟨bytes, b, len, events, spelled⟩ := h.events
  obtain ⟨bytes', b', len', events', spelled'⟩ := g.events
  obtain ⟨rfl, last⟩ := List.append_inj (flatMap_byteBits_injective (spelled.trans spelled'.symm)) (len.trans len'.symm)
  obtain rfl : b = b' := by simpa using last
  exact ⟨Sink.ext_fields (h.answers.trans g.answers.symm) (h.closeAnswers.trans g.closeAnswers.symm)
    (events.trans events'.symm) (h.past.trans g.past.symm), h.count.trans g.count.symm⟩

theorem Writer.StoppedAt.unique {k' : Nat} {a' : Ack} (h : w.StoppedAt bits k a w₁) (g : w.StoppedAt bits k' a' w₂) :
    a = a' ∧ w₁.snk = w₂.snk ∧ w₁.cnt = w₂.cnt := by
  obtain ⟨rfl, rfl⟩ := h.refuses.unique g.refuses
  exact ⟨rfl, h.fails.unique g.fails⟩

theorem Writer.StoppedAt.not_acceptsPushes (h : w.StoppedAt bits k a w₁) :
    ¬ acceptsPushes (pushesFor bits.length w) w := h.refuses.not_acceptsPushes h.needed

/-- Two ways to write the same bits agree in all R216 names. -/
theorem Produces.sameWrite {x y : Res Writer Unit} (h : Produces bits () w x) (g : Produces bits () w y) :
    sameWrite x y := by
  cases x with
  | done u w₁ =>
    cases y with
    | done u' w₂ => exact h.2.2.unique g.2.2
    | raise e w₂ =>
      obtain ⟨k, code, -, stopped⟩ := g
      exact stopped.not_acceptsPushes h.2.1
    | hang w₂ =>
      obtain ⟨k, stopped⟩ := g
      exact stopped.not_acceptsPushes h.2.1
  | raise e w₁ =>
    obtain ⟨k, code, rfl, stopped⟩ := h
    cases y with
    | done u' w₂ => exact stopped.not_acceptsPushes g.2.1
    | raise e w₂ =>
      obtain ⟨k', code', rfl, stopped'⟩ := g
      obtain ⟨ack, rest⟩ := stopped.unique stopped'
      exact ⟨congrArg Raise.channelIOFailure (Ack.fail.inj ack), rest⟩
    | hang w₂ =>
      obtain ⟨k', stopped'⟩ := g
      exact nomatch (stopped.unique stopped').1
  | hang w₁ =>
    obtain ⟨k, stopped⟩ := h
    cases y with
    | done u' w₂ => exact stopped.not_acceptsPushes g.2.1
    | raise e w₂ =>
      obtain ⟨k', code', -, stopped'⟩ := g
      exact nomatch (stopped.unique stopped').1
    | hang w₂ =>
      obtain ⟨k', stopped'⟩ := g
      exact (stopped.unique stopped').2

end

/-- Settles O43: the chunked writes and the serial one have the same triple. -/
theorem chunkedWritesEqualTheSerialWrite : Obligations.ChunkedWritesEqualTheSerialWrite :=
  ⟨fun n v w pos max _ _ => (wBits8_produces pos max v w).sameWrite (wPutBits_produces n v (.inr pos)),
    fun n v w pos _ _ _ => (wU16_produces pos v w).sameWrite (wPutBits_produces n v (.inr pos)),
    fun n v w pos _ _ _ => (wU32_produces pos v w).sameWrite (wPutBits_produces n v (.inr pos)),
    fun n v w pos _ _ _ => (wU64_produces pos v w).sameWrite (wPutBits_produces n v (.inr pos))⟩

end Sys2Proof.Machine
end

section
/-!
PROOF. The value writes of BW (R218 to R224, R250, R251): each is a write of its bits behind the validation of its
operands.
-/
namespace Sys2Proof.Machine

/-! ### The wrapper around a write -/

/-- The wrapper of a BW that accepts commands answers, or marks the command unfinished, as the pseudocode ends
(R110). -/
theorem runWriter_ends {sem : Writer → Res Writer Word64} {s : State} {D : Word64 → Writer → Prop} {X : Leaves Writer}
    (accepts : s.bw.refuses = false) (ends : (sem s.bw).EndsIn D X) :
    ∃ t, runWriter sem s = .next t ∧
      ((∃ v w, D v w ∧ t = (s.setBw w).respond .ok v) ∨ (∃ e w, X.raised e w ∧ t = (s.setBw w).takeError .bw e) ∨
        ∃ w, X.hung w ∧ t = (s.setBw w).hang .bw) := by
  cases result : sem s.bw with
  | done v w =>
    rw [result] at ends
    exact ⟨_, by simp only [runWriter, accepts, result]; rfl, .inl ⟨v, w, ends, rfl⟩⟩
  | raise e w =>
    rw [result] at ends
    exact ⟨_, by simp only [runWriter, accepts, result]; rfl, .inr (.inl ⟨e, w, ends, rfl⟩)⟩
  | hang w =>
    rw [result] at ends
    exact ⟨_, by simp only [runWriter, accepts, result]; rfl, .inr (.inr ⟨w, ends, rfl⟩)⟩

section
variable {sem : Writer → Res Writer Word64} {s t : State} {bits : List Bool} {v : Word64}

/-- A write whose pushes are accepted completes. -/
theorem runWriter_of_accepted (accepts : s.bw.refuses = false) (produces : Produces bits v s.bw (sem s.bw))
    (accepted : acceptsPushes (pushesFor bits.length s.bw) s.bw) :
    ∃ t, runWriter sem s = .next t ∧ t.response = some { status := .ok, res := v } ∧ ProducesBits bits s.bw t.bw ∧
      OnlyWriter s t := by
  obtain ⟨t, run, ⟨_, w, ⟨rfl, -, written⟩, rfl⟩ | ⟨e, w, ⟨k, code, -, stopped⟩, rfl⟩ | ⟨w, ⟨k, stopped⟩, rfl⟩⟩ :=
    runWriter_ends accepts produces
  · exact ⟨_, run, rfl, written, rfl⟩
  · exact absurd accepted stopped.not_acceptsPushes
  · exact absurd accepted stopped.not_acceptsPushes

/-- A write that needs a push that is refused ends there: with status 3 and the code, or unfinished (R283, R334). -/
theorem runWriter_of_refused (accepts : s.bw.refuses = false) (produces : Produces bits v s.bw (sem s.bw)) {k : Nat}
    {a : Ack} (needed : k < pushesFor bits.length s.bw) (refused : s.bw.RefusesPush k a) :
    ∃ t, runWriter sem s = .next t ∧ PushFailed bits k a s t := by
  obtain ⟨t, run, ⟨_, w, ⟨rfl, accepted, -⟩, rfl⟩ | ⟨e, w, ⟨k', code, rfl, stopped⟩, rfl⟩ | ⟨w, ⟨k', stopped⟩, rfl⟩⟩ :=
    runWriter_ends accepts produces
  · exact absurd accepted (refused.not_acceptsPushes needed)
  · obtain ⟨rfl, rfl⟩ := refused.unique stopped.refuses
    have fails := stopped.fails
    exact ⟨_, run, ⟨fails.count, fails.cursor, fails.answers, fails.events, fails.closeAnswers, fails.past, fails.ebw,
      fails.closed⟩, rfl, rfl, rfl⟩
  · obtain ⟨rfl, rfl⟩ := refused.unique stopped.refuses
    exact ⟨_, run, stopped.fails, stopped.err.trans ((Writer.refuses_eq_false s.bw).1 accepts).1, rfl⟩

/-- A command that answers with status 0 has run its `Sem` to the end. -/
theorem runWriter_ok (run : runWriter sem s = .next t) (ok : t.response = some { status := .ok, res := v }) :
    s.bw.refuses = false ∧ sem s.bw = .done v t.bw := by
  obtain ⟨-, rfl⟩ | ⟨accepts, ⟨u, w, done, rfl⟩ | ⟨e, w, -, rfl⟩ | ⟨w, -, rfl⟩⟩ := runWriter_cases run
  · simp at ok
  · obtain rfl : u = v := by simpa using ok
    exact ⟨accepts, done⟩
  · simp at ok
  · simp at ok

end

/-! ### Value commands -/

/-- The bits of a value command of the writer (R218 to R224, R250, R251). -/
def bitsGiven (i : Instr) (opv : Word64) : List Bool :=
  match i with
  | .wbool => [decide (opvInt32 opv = 1)]
  | .wu8 len | .wu16 len | .wu32 len | .ws32 len => intBits len (opvInt32 opv)
  | .wu64 len | .ws64 len => intBits len (opvInt64 opv)
  | .wf32 => intBits 32 (opvPattern32 opv : Int)
  | .wf64 => intBits 64 (opvPattern64 opv : Int)
  | .wlpb _ _ | .walign | .wclose | .wcnt => []
  | .rbool | .ru8 _ | .ru16 _ | .ru32 _ | .rs32 _ | .ru64 _ | .rs64 _ | .rf32 | .rf64 | .rlpb _ _ | .ralign => []
  | .rclose | .rcnt => []

/-- With the operand `opv` command `i` is a write of `bits`, or its operands are invalid and it writes nothing
(R281). -/
structure WritesValue (i : Instr) (opv : Word64) (bits : List Bool) (sem : Writer → Res Writer Word64) : Prop where
  exec_eq : ∀ s : State, s.opv = opv → exec i s = runWriter sem s
  invalid : invalidOperands i opv → ∀ w, sem w = .raise .invalidArgument w
  produces : ¬ invalidOperands i opv → ∀ w, Produces bits 0 w (sem w)

section
variable {i : Instr} {opv : Word64} {bits : List Bool} {sem : Writer → Res Writer Word64}

theorem WritesValue.writesBits (h : WritesValue i opv bits sem) (valid : ¬ invalidOperands i opv) :
    WritesBits i opv bits := by
  intro s operand accepts _ accepted
  rw [h.exec_eq s operand]
  exact runWriter_of_accepted accepts (h.produces valid s.bw) accepted

theorem WritesValue.stopsAtFailedPush (h : WritesValue i opv bits sem) (valid : ¬ invalidOperands i opv) :
    StopsAtFailedPush i opv bits := by
  intro s k a operand accepts _ needed accepted answer notOk
  rw [h.exec_eq s operand]
  exact runWriter_of_refused accepts (h.produces valid s.bw) needed ⟨accepted, answer, notOk⟩

/-- A command behind a test of its operands. -/
theorem WritesValue.of_checked {test : Bool} {x : Writer → Res Writer Word64}
    (exec_eq : ∀ s : State, s.opv = opv → exec i s = runWriter sem s)
    (sem_eq : ∀ w, sem w = if test then x w else .raise .invalidArgument w)
    (legal : test = true ↔ ¬ invalidOperands i opv) (produces : test = true → ∀ w, Produces bits 0 w (x w)) :
    WritesValue i opv bits sem where
  exec_eq := exec_eq
  invalid bad w := by rw [sem_eq, if_neg fun passed => legal.1 passed bad]
  produces valid w := by
    rw [sem_eq, if_pos (legal.2 valid)]
    exact produces (legal.2 valid) w

end

/-! ### The tests of the operands (R217, R281) -/

/-- The operands that are not invalid. -/
theorem valid_iff {min max len : Nat} {fits : Prop} :
    ¬ (len < min ∨ max < len ∨ ¬ fits) ↔ min ≤ len ∧ len ≤ max ∧ fits := by
  rw [not_or, not_or, not_lt, not_lt, not_not]

theorem unsigned_test_iff (max len : Nat) (v : Int) :
    (inRange 1 max len && fitsU len v) = true ↔ 1 ≤ len ∧ len ≤ max ∧ 0 ≤ v ∧ v < 2 ^ len := by
  rw [Bool.and_eq_true, inRange_iff, fitsU_iff, and_assoc]

/-- At the full width every operand fits. -/
theorem signed_test_iff {max len : Nat} {v : Int} (range : -2 ^ (max - 1) ≤ v ∧ v < 2 ^ (max - 1)) :
    (inRange 2 max len && fitsS len v max) = true ↔
      2 ≤ len ∧ len ≤ max ∧ -2 ^ (len - 1) ≤ v ∧ v < 2 ^ (len - 1) := by
  have full : len = max → -2 ^ (len - 1) ≤ v ∧ v < 2 ^ (len - 1) := fun eq => eq ▸ range
  rw [Bool.and_eq_true, inRange_iff, fitsS_iff, or_iff_right_of_imp full, and_assoc]

/-! ### The commands one by one -/

/-- A sign bit and then the bits below it (R222, R224, R250, R251). -/
theorem signed_produces {n : Nat} {op : Int → Writer → Res Writer Unit}
    (produces : ∀ v w, Produces (intBits n v) () w (op v w)) (v : Int) (w : Writer) :
    Produces (intBits (n + 1) v) (0 : Word64) w
      ((wBit (bitOf v n) w).bind fun _ w' => (op (low v n) w').bind fun _ w'' => .done 0 w'') := by
  refine (wBit_produces (bitOf v n) w).seq fun w' _ => ?_
  rw [← intBits_low le_rfl]
  exact (produces (low v n) w').returning 0

section
variable {i : Instr} {opv : Word64} {sem : Writer → Res Writer Word64} {max len : Nat} {v : Int}

/-- A command that validates and writes an unsigned number (R219 to R221, R223). -/
theorem WritesValue.unsigned {op : Writer → Res Writer Unit}
    (exec_eq : ∀ s : State, s.opv = opv → exec i s = runWriter sem s)
    (sem_eq : ∀ w, sem w = if inRange 1 max len && fitsU len v then (op w).bind fun _ w' => .done 0 w'
      else .raise .invalidArgument w)
    (invalid_iff : invalidOperands i opv ↔ len < 1 ∨ max < len ∨ ¬ (0 ≤ v ∧ v < 2 ^ len))
    (produces : 1 ≤ len → len ≤ max → ∀ w, Produces (intBits len v) () w (op w)) :
    WritesValue i opv (intBits len v) sem := by
  have legal := (unsigned_test_iff max len v).trans (valid_iff.symm.trans (not_congr invalid_iff.symm))
  refine .of_checked exec_eq sem_eq legal fun passed w => ?_
  obtain ⟨pos, fits, -⟩ := (unsigned_test_iff max len v).1 passed
  exact (produces pos fits w).returning 0

/-- A command that validates and writes a signed number (R222, R224). -/
theorem WritesValue.signed {op : Nat → Int → Writer → Res Writer Unit}
    (exec_eq : ∀ s : State, s.opv = opv → exec i s = runWriter sem s)
    (sem_eq : ∀ w, sem w = if inRange 2 max len && fitsS len v max then
        (wBit (bitOf v (len - 1)) w).bind fun _ w' => (op (len - 1) (low v (len - 1)) w').bind fun _ w'' => .done 0 w''
      else .raise .invalidArgument w)
    (range : -2 ^ (max - 1) ≤ v ∧ v < 2 ^ (max - 1))
    (invalid_iff : invalidOperands i opv ↔ len < 2 ∨ max < len ∨ ¬ (-2 ^ (len - 1) ≤ v ∧ v < 2 ^ (len - 1)))
    (produces : ∀ n, 1 ≤ n → ∀ v w, Produces (intBits n v) () w (op n v w)) :
    WritesValue i opv (intBits len v) sem := by
  have legal := (signed_test_iff range).trans (valid_iff.symm.trans (not_congr invalid_iff.symm))
  refine .of_checked exec_eq sem_eq legal fun passed w => ?_
  obtain ⟨n, rfl⟩ := Nat.exists_eq_add_of_le' ((signed_test_iff range).1 passed).1
  exact signed_produces (produces (n + 1) (Nat.le_add_left 1 n)) v w

end

section
variable (len : Nat) (opv : Word64)

theorem wbool_writes : WritesValue .wbool opv (bitsGiven .wbool opv) (semWbool opv) where
  exec_eq _ operand := operand ▸ rfl
  invalid bad _ := if_pos bad
  produces valid w := by
    have passed : ¬ (opvInt32 opv ≠ 0 ∧ opvInt32 opv ≠ 1) := valid
    rw [semWbool, if_neg passed]
    exact (wBit_produces _ w).returning 0

theorem wu8_writes : WritesValue (.wu8 len) opv (bitsGiven (.wu8 len) opv) (semWu8 len opv) :=
  .unsigned (fun _ operand => operand ▸ rfl) (fun _ => rfl) .rfl fun pos max => wBits8_produces pos max _

theorem wu16_writes : WritesValue (.wu16 len) opv (bitsGiven (.wu16 len) opv) (semWu16 len opv) :=
  .unsigned (fun _ operand => operand ▸ rfl) (fun _ => rfl) .rfl fun pos _ => wU16_produces pos _

theorem wu32_writes : WritesValue (.wu32 len) opv (bitsGiven (.wu32 len) opv) (semWu32 len opv) :=
  .unsigned (fun _ operand => operand ▸ rfl) (fun _ => rfl) .rfl fun pos _ => wU32_produces pos _

theorem wu64_writes : WritesValue (.wu64 len) opv (bitsGiven (.wu64 len) opv) (semWu64 len opv) :=
  .unsigned (fun _ operand => operand ▸ rfl) (fun _ => rfl) .rfl fun pos _ => wU64_produces pos _

theorem ws32_writes : WritesValue (.ws32 len) opv (bitsGiven (.ws32 len) opv) (semWs32 len opv) :=
  .signed (fun _ operand => operand ▸ rfl) (fun _ => rfl) (opvInt32_range opv) .rfl fun _ pos => wU32_produces pos

theorem ws64_writes : WritesValue (.ws64 len) opv (bitsGiven (.ws64 len) opv) (semWs64 len opv) :=
  .signed (fun _ operand => operand ▸ rfl) (fun _ => rfl) (opvInt64_range opv) .rfl fun _ pos => wU64_produces pos

theorem wf32_writes : WritesValue .wf32 opv (bitsGiven .wf32 opv) (semWf32 opv) where
  exec_eq _ operand := operand ▸ rfl
  invalid bad := bad.elim
  produces _ w := signed_produces (wU32_produces (by decide)) _ w

theorem wf64_writes : WritesValue .wf64 opv (bitsGiven .wf64 opv) (semWf64 opv) where
  exec_eq _ operand := operand ▸ rfl
  invalid bad := bad.elim
  produces _ w := signed_produces (wU64_produces (by decide)) _ w

end

/-! ### The statements -/

/-- Settles O24: WBOOL is one bit behind the test of its operand. -/
theorem booleanWriteProducesItsBit : Obligations.BooleanWriteProducesItsBit := fun opv flag =>
  (wbool_writes opv).writesBits fun bad => flag.elim bad.1 bad.2

/-- Settles O25: each of the four is the write of its bits, and the operands are those its test accepts. -/
theorem unsignedWritesProduceTheirBits : Obligations.UnsignedWritesProduceTheirBits :=
  ⟨fun len opv pos max low high => (wu8_writes len opv).writesBits (valid_iff.2 ⟨pos, max, low, high⟩),
    fun len opv pos max low high => (wu16_writes len opv).writesBits (valid_iff.2 ⟨pos, max, low, high⟩),
    fun len opv pos max low high => (wu32_writes len opv).writesBits (valid_iff.2 ⟨pos, max, low, high⟩),
    fun len opv pos max low high => (wu64_writes len opv).writesBits (valid_iff.2 ⟨pos, max, low, high⟩)⟩

/-- Settles O26: the sign bit and the bits below it are the bits of the two's-complement form. -/
theorem signedWritesProduceTheirBits : Obligations.SignedWritesProduceTheirBits :=
  ⟨fun len opv min max low high => (ws32_writes len opv).writesBits (valid_iff.2 ⟨min, max, low, high⟩),
    fun len opv min max low high => (ws64_writes len opv).writesBits (valid_iff.2 ⟨min, max, low, high⟩)⟩

/-- Settles O31: the triples behind O24 to O26, and those of the float writes, for a sink that refuses a push. -/
theorem valueWritesStopAtAFailedPush : Obligations.ValueWritesStopAtAFailedPush := by
  refine ⟨fun opv flag => (wbool_writes opv).stopsAtFailedPush fun bad => flag.elim bad.1 bad.2, ?_, ?_,
    fun opv => (wf32_writes opv).stopsAtFailedPush id, fun opv => (wf64_writes opv).stopsAtFailedPush id⟩
  · rintro i opv valid len (rfl | rfl | rfl | rfl)
    · exact (wu8_writes len opv).stopsAtFailedPush valid
    · exact (wu16_writes len opv).stopsAtFailedPush valid
    · exact (wu32_writes len opv).stopsAtFailedPush valid
    · exact (ws32_writes len opv).stopsAtFailedPush valid
  · rintro i opv valid len (rfl | rfl)
    · exact (wu64_writes len opv).stopsAtFailedPush valid
    · exact (ws64_writes len opv).stopsAtFailedPush valid

end Sys2Proof.Machine
end

section
/-!
PROOF. The round trip (R227): the writer's program is one write of the bits of its values, the drain adds zeros up to a
byte, and the reader finds the same bits and takes them apart again.
-/
namespace Sys2Proof.Machine

/-! ### The values of the bits -/

theorem sext64_opvInt64 (opv : Word64) : sext64 (opvInt64 opv) = opv := BitVec.ofInt_toInt

theorem zext64_opvPattern64 (opv : Word64) : zext64 (opvPattern64 opv) = opv := BitVec.ofNat_toNat ..

/-- The unsigned reading of the bits of a pattern is the pattern. -/
theorem bitsToNat_intBits_natCast {n p : Nat} (below : p < 2 ^ n) : bitsToNat (intBits n (p : Int)) = p := by
  have reading := bitsToNat_intBits n (p : Int)
  rw [low_eq_self (Int.natCast_nonneg p) (by exact_mod_cast below)] at reading
  exact_mod_cast reading

/-- Command `j` reads as many bits as `bits` has, and finds `result` in them. -/
def FindsIn (bits : List Bool) (j : Instr) (result : Word64) : Prop :=
  ∃ value, CommandReads j bits.length value ∧ value bits = result

section
variable {j : Instr} {n : Nat} {v : Int}

theorem finds_unsigned (reads : CommandReads j n fun bits => zext64 (bitsToNat bits)) (nonneg : 0 ≤ v)
    (below : v < 2 ^ n) : FindsIn (intBits n v) j (sext64 v) := by
  have reading : (bitsToNat (intBits n v) : Int) = v := (bitsToNat_intBits n v).trans (low_eq_self nonneg below)
  refine ⟨_, (intBits_length n v).symm ▸ reads, ?_⟩
  rw [zext64, ← BitVec.ofInt_natCast, reading, sext64]

theorem finds_signed (min : 2 ≤ n) (reads : CommandReads j n fun bits => sext64 (bitsToInt bits))
    (low : -2 ^ (n - 1) ≤ v) (high : v < 2 ^ (n - 1)) : FindsIn (intBits n v) j (sext64 v) := by
  obtain ⟨k, rfl⟩ := Nat.exists_eq_add_of_le' min
  exact ⟨_, (intBits_length (k + 2) v).symm ▸ reads, congrArg sext64 (bitsToInt_intBits low high)⟩

theorem finds_pattern {p : Nat} (reads : CommandReads j n fun bits => zext64 (bitsToNat bits)) (below : p < 2 ^ n) :
    FindsIn (intBits n (p : Int)) j (zext64 p) :=
  ⟨_, (intBits_length n (p : Int)).symm ▸ reads, congrArg zext64 (bitsToNat_intBits_natCast below)⟩

theorem finds_boolean (flag : v = 0 ∨ v = 1) : FindsIn [decide (v = 1)] .rbool (sext64 v) := by
  refine ⟨_, rbool_reads, ?_⟩
  obtain rfl | rfl := flag
  · rfl
  · rfl

end

/-- The command that mirrors a value command finds in its bits the value written (R227). -/
theorem mirror_finds {i j : Instr} {opv : Word64} (mirror : mirrorOf i = some j) (valid : ¬ invalidOperands i opv) :
    FindsIn (bitsGiven i opv) j (valueGiven i opv) := by
  cases i with
  | wbool =>
    cases mirror
    exact finds_boolean (by simpa [invalidOperands, or_iff_not_imp_left] using valid)
  | wu8 len =>
    cases mirror
    obtain ⟨pos, max, nonneg, below⟩ := valid_iff.1 valid
    exact finds_unsigned (ru8_reads pos max) nonneg below
  | wu16 len =>
    cases mirror
    obtain ⟨pos, max, nonneg, below⟩ := valid_iff.1 valid
    exact finds_unsigned (ru16_reads pos max) nonneg below
  | wu32 len =>
    cases mirror
    obtain ⟨pos, max, nonneg, below⟩ := valid_iff.1 valid
    exact finds_unsigned (ru32_reads pos max) nonneg below
  | ws32 len =>
    cases mirror
    obtain ⟨min, max, low, high⟩ := valid_iff.1 valid
    exact finds_signed min (rs32_reads min max) low high
  | wu64 len =>
    cases mirror
    obtain ⟨pos, max, nonneg, below⟩ := valid_iff.1 valid
    have finds := finds_unsigned (ru64_reads pos max) nonneg below
    rwa [sext64_opvInt64] at finds
  | ws64 len =>
    cases mirror
    obtain ⟨min, max, low, high⟩ := valid_iff.1 valid
    have finds := finds_signed min (rs64_reads min max) low high
    rwa [sext64_opvInt64] at finds
  | wf32 =>
    cases mirror
    exact finds_pattern rf32_reads (opvLow opv).isLt
  | wf64 =>
    cases mirror
    have finds := finds_pattern rf64_reads opv.isLt
    rwa [← opvPattern64, zext64_opvPattern64] at finds
  | _ => simp [mirrorOf] at mirror

/-- Every command that has a mirror is a write of its value. -/
theorem value_writes {i j : Instr} (mirror : mirrorOf i = some j) (opv : Word64) :
    ∃ sem, WritesValue i opv (bitsGiven i opv) sem := by
  cases i with
  | wbool => exact ⟨_, wbool_writes opv⟩
  | wu8 len => exact ⟨_, wu8_writes len opv⟩
  | wu16 len => exact ⟨_, wu16_writes len opv⟩
  | wu32 len => exact ⟨_, wu32_writes len opv⟩
  | ws32 len => exact ⟨_, ws32_writes len opv⟩
  | wu64 len => exact ⟨_, wu64_writes len opv⟩
  | ws64 len => exact ⟨_, ws64_writes len opv⟩
  | wf32 => exact ⟨_, wf32_writes opv⟩
  | wf64 => exact ⟨_, wf64_writes opv⟩
  | _ => simp [mirrorOf] at mirror

/-! ### Programs -/

theorem runAll_cons_eq {i : Instr} {opv v : Word64} {rest : List (Instr × Word64)} {s t u : State} {vs : List Word64}
    (run : exec i { s with opv := opv } = .next t) (ok : t.response = some { status := .ok, res := v })
    (after : runAll rest t = some (vs, u)) : runAll ((i, opv) :: rest) s = some (v :: vs, u) := by
  simp [runAll, run, ok, after]

/-- A program that runs to its end is a first command with status 0 and a program that runs to its end. -/
theorem runAll_cons_cases {i : Instr} {opv : Word64} {rest : List (Instr × Word64)} {s u : State} {vs : List Word64}
    (h : runAll ((i, opv) :: rest) s = some (vs, u)) :
    ∃ t v vs', exec i { s with opv := opv } = .next t ∧ t.response = some { status := .ok, res := v } ∧
      runAll rest t = some (vs', u) := by
  unfold runAll at h
  split at h
  · split at h
    · obtain ⟨⟨vs', u'⟩, after, eq⟩ := Option.map_eq_some_iff.1 h
      cases eq
      exact ⟨_, _, vs', ‹_›, ‹_›, after⟩
    · cases h
  · cases h

/-- The bits of a program of value commands. -/
def programBits (prog : List (Instr × Word64)) : List Bool := prog.flatMap fun p => bitsGiven p.1 p.2

/-- A value command with status 0 had valid operands and has written the bits of its value. -/
theorem value_written {i j : Instr} {s t : State} {v : Word64} (mirror : mirrorOf i = some j)
    (run : exec i s = .next t) (ok : t.response = some { status := .ok, res := v }) :
    ¬ invalidOperands i s.opv ∧ ProducesBits (bitsGiven i s.opv) s.bw t.bw := by
  obtain ⟨sem, writes⟩ := value_writes mirror s.opv
  rw [writes.exec_eq s rfl] at run
  obtain ⟨-, done⟩ := runWriter_ok run ok
  have valid : ¬ invalidOperands i s.opv := fun bad => by simp [writes.invalid bad] at done
  have ends := writes.produces valid s.bw
  rw [done] at ends
  exact ⟨valid, ends.2.2⟩

/-- A program of value commands, each with status 0, is one write. -/
theorem runAll_written {prog : List (Instr × Word64)} {mirror : List Instr} {s t : State} {vs : List Word64}
    (mirrored : prog.map (fun p => mirrorOf p.1) = mirror.map some) (room : s.bw.cur.val < 8)
    (run : runAll prog s = some (vs, t)) :
    (∀ p ∈ prog, ¬ invalidOperands p.1 p.2) ∧ ProducesBits (programBits prog) s.bw t.bw := by
  induction prog generalizing mirror s vs with
  | nil =>
    cases run
    exact ⟨by simp, .nothing room⟩
  | cons p prog ih =>
    obtain ⟨i, opv⟩ := p
    obtain ⟨j, mirror, rfl, head, tail⟩ := List.map_eq_cons_iff.1 mirrored.symm
    obtain ⟨s', v, vs', run, ok, after⟩ := runAll_cons_cases run
    obtain ⟨valid, written⟩ := value_written head.symm run ok
    obtain ⟨valids, rest⟩ := ih tail.symm written.cur_lt after
    exact ⟨List.forall_mem_cons.2 ⟨valid, valids⟩, written.trans rest⟩

/-- The mirror sequence, where the bits of the program are what is readable first. -/
theorem runAll_read {prog : List (Instr × Word64)} {mirror : List Instr} {r : State} {rest : List Bool}
    (mirrored : prog.map (fun p => mirrorOf p.1) = mirror.map some)
    (valid : ∀ p ∈ prog, ¬ invalidOperands p.1 p.2) (accepts : r.br.refuses = false)
    (readable : readableBits r.br = programBits prog ++ rest) :
    ∃ v, runAll (mirror.map fun i => (i, 0)) r = some (prog.map fun p => valueGiven p.1 p.2, v) := by
  induction prog generalizing mirror r with
  | nil =>
    obtain rfl : mirror = [] := by simpa using mirrored.symm
    exact ⟨r, rfl⟩
  | cons p prog ih =>
    obtain ⟨i, opv⟩ := p
    obtain ⟨j, mirror, rfl, head, tail⟩ := List.map_eq_cons_iff.1 mirrored.symm
    obtain ⟨validHead, validTail⟩ := List.forall_mem_cons.1 valid
    obtain ⟨value, reads, given⟩ := mirror_finds head.symm validHead
    have split : readableBits r.br = bitsGiven i opv ++ (programBits prog ++ rest) := by
      rw [readable, programBits, List.flatMap_cons, List.append_assoc]
      rfl
    obtain ⟨t, run, ok, consumed, -, -⟩ := reads.returnsNextBits { r with opv := 0 } accepts (by simp [split])
    have accepts' : t.br.refuses = false := by
      rw [Reader.refuses, consumed.err, consumed.closed]
      exact accepts
    obtain ⟨v, after⟩ := ih tail.symm validTail accepts' (by rw [consumed.bits]; simp [split])
    refine ⟨v, runAll_cons_eq run ?_ after⟩
    simp [ok, split, ← given]

/-! ### The drain (R253, R258) -/

theorem intBits_zero (n : Nat) : intBits n 0 = List.replicate n false := by
  induction n with
  | zero => rfl
  | succ n ih => simp [intBits, ih, List.replicate_succ, bitOf, asr]

section
variable {w : Writer}

/-- Finishing the byte writes the zeros it lacks. -/
theorem wFinishByte_produces (room : w.cur.val < 8) :
    Produces (List.replicate (missingBits w) false) () w (wFinishByte w) := by
  unfold wFinishByte missingBits
  split
  · rw [← intBits_zero]
    exact wBits8_produces (by omega) (by omega) 0 w
  · exact .nothing () room

theorem wZeroBytes_produces (k : Nat) (room : w.cur.val < 8) :
    Produces (List.replicate (8 * k) false) () w (wZeroBytes k w) := by
  induction k generalizing w with
  | zero => exact .nothing () room
  | succ k ih =>
    rw [Nat.mul_succ, Nat.add_comm, List.replicate_add, ← intBits_zero 8]
    exact (wBits8_produces (by decide) le_rfl 0 w).seq fun _ written => ih written.cur_lt

/-- The zero bits WALIGN writes for boundary `bd` (R253, R257). -/
def paddingBits (bd : Nat) (w : Writer) : Nat :=
  missingBits w + 8 * zeroBytesToBoundary bd (w.cnt + pushesFor (missingBits w) w)

/-- WALIGN is a write of the zeros it returns the number of. -/
theorem semWalign_produces {opv : Word64} (pos : 0 < opvInt32 opv) (room : w.cur.val < 8) :
    Produces (List.replicate (paddingBits (opvInt32 opv).toNat w) false) (zext64 (paddingBits (opvInt32 opv).toNat w)) w
      (semWalign opv w) := by
  rw [semWalign, if_neg pos.not_ge, paddingBits, List.replicate_add]
  refine (wFinishByte_produces room).seq fun w' written => ?_
  have count : w'.cnt = w.cnt + pushesFor (missingBits w) w := by simpa using written.count
  rw [← count]
  exact (wZeroBytes_produces _ written.cur_lt).returning _

end

/-- After padding to a byte boundary all bits are at the sink. -/
theorem ProducesBits.pushed_of_boundary {bits : List Bool} {w w' : Writer} (h : ProducesBits bits w w')
    (boundary : (w.cur.val + bits.length) % 8 = 0) :
    (pushedBytes w'.snk.events).flatMap byteBits = writtenBits w ++ bits := by
  rw [← h.stream, writtenBits, h.cur_eq, boundary, List.take_zero, List.append_nil]

theorem missingBits_boundary {w : Writer} (room : w.cur.val < 8) (k : Nat) :
    (w.cur.val + (missingBits w + 8 * k)) % 8 = 0 := by
  unfold missingBits
  split <;> omega

/-- A close that is answered with Ok pushes nothing. -/
theorem semWclose_done {w w' : Writer} {v : Word64} (h : semWclose w = .done v w') :
    ∃ w₁, wFinishByte w = .done () w₁ ∧ pushedBytes w'.snk.events = pushedBytes w₁.snk.events := by
  unfold semWclose at h
  cases finish : wFinishByte w with
  | done u w₁ =>
    rw [finish, Res.bind_done, wCloseChannel_eq] at h
    refine ⟨w₁, rfl, ?_⟩
    simp only at h
    split at h <;> cases h
    simp
  | raise e w₁ => simp [finish] at h
  | hang w₁ => simp [finish] at h

/-- A drain with status 0 leaves at the sink what was written, and zeros. -/
theorem drained {drain : Instr} {t u : State} {res : Word64} (isDrain : drain = .walign ∨ drain = .wclose)
    (room : t.bw.cur.val < 8) (run : exec drain t = .next u) (ok : u.response = some { status := .ok, res := res }) :
    ∃ zeros, (pushedBytes u.bw.snk.events).flatMap byteBits = writtenBits t.bw ++ zeros := by
  obtain rfl | rfl := isDrain
  · obtain ⟨-, done⟩ := runWriter_ok (sem := semWalign t.opv) run ok
    have pos : 0 < opvInt32 t.opv := by
      by_contra negative
      simp [semWalign, not_lt.1 negative] at done
    have ends := semWalign_produces pos room
    rw [done] at ends
    refine ⟨_, ends.2.2.pushed_of_boundary ?_⟩
    rw [List.length_replicate]
    exact missingBits_boundary room _
  · obtain ⟨-, done⟩ := runWriter_ok (sem := semWclose) run ok
    obtain ⟨w₁, finish, pushed⟩ := semWclose_done done
    have ends := wFinishByte_produces room
    rw [finish] at ends
    refine ⟨_, (congrArg _ pushed).trans (ends.2.2.pushed_of_boundary ?_)⟩
    rw [List.length_replicate]
    exact missingBits_boundary room 0

/-! ### The statement -/

theorem readyBytes_map_byte (bytes : List Byte) : readyBytes (bytes.map PullAnswer.byte) = bytes := by
  induction bytes with
  | nil => rfl
  | cons b bytes ih => simp [readyBytes, ih]

/-- Settles O52: the bytes at the sink spell the bits of the program and zeros, and these are what the reader
can read. -/
theorem mirroredReadsReturnTheValuesWritten : Obligations.MirroredReadsReturnTheValuesWritten := by
  unfold Obligations.MirroredReadsReturnTheValuesWritten
  intro prog mirror drain s t u r vs opv res mirrored isDrain empty _ _ fresh run drainRun drainOk
    bufferEmpty noErr notClosed source
  obtain ⟨valid, written⟩ := runAll_written mirrored (by omega) run
  obtain ⟨zeros, pushed⟩ := drained (t := { t with opv := opv }) isDrain written.cur_lt drainRun drainOk
  have nothing : writtenBits s.bw = [] := by simp [writtenBits, fresh, empty, pushedBytes]
  have readable : readableBits r.br = programBits prog ++ zeros := by
    rw [readableBits, bufferEmpty, source, readyBytes_map_byte, pushed, written.stream, nothing]
    simp
  exact runAll_read mirrored valid ((Reader.refuses_eq_false r.br).2 ⟨noErr, notClosed⟩) readable

end Sys2Proof.Machine
end

section
/-!
PROOF. The composite writes of BW (R250 to R258): the float writes, WLPB and WALIGN each have the triple of a write of all
their bits, for a sink that accepts the pushes and for one that refuses one, and WCLOSE has it for the byte it finishes.
Two alignments then meet: BW's with itself, and BW's with BR's at the mirrored position.
-/
namespace Sys2Proof.Machine

/-! ### Float patterns (R250, R251) -/

/-- Settles O27: the triples of the float writes behind O31; no operand is invalid. -/
theorem floatWritesProduceThePattern : Obligations.FloatWritesProduceThePattern :=
  ⟨fun opv => (wf32_writes opv).writesBits id, fun opv => (wf64_writes opv).writesBits id⟩

/-! ### Triples of a first piece -/

section
variable {α β : Type} {bits : List Bool} {u : α} {w : Writer} {x : Res Writer α}

/-- A write whose pushes are accepted returns. -/
theorem Produces.done_of_accepted (h : Produces bits u w x) (accepted : acceptsPushes (pushesFor bits.length w) w) :
    ∃ w', x = .done u w' ∧ ProducesBits bits w w' := by
  cases x with
  | done v w' =>
    obtain ⟨rfl, -, written⟩ := h
    exact ⟨w', rfl, written⟩
  | raise e w' =>
    obtain ⟨k, code, -, stopped⟩ := h
    exact absurd accepted stopped.not_acceptsPushes
  | hang w' =>
    obtain ⟨k, stopped⟩ := h
    exact absurd accepted stopped.not_acceptsPushes

/-- Nothing follows a write that needs a refused push, whatever the pseudocode goes on with (R11). -/
theorem Produces.bind_of_refused (h : Produces bits u w x) {k : Nat} {a : Ack} (needed : k < pushesFor bits.length w)
    (refused : w.RefusesPush k a) (v : β) (f : α → Writer → Res Writer β) : Produces bits v w (x.bind f) :=
  Res.EndsIn.bind h fun _ _ _ ⟨_, accepted, _⟩ => absurd accepted (refused.not_acceptsPushes needed)

end

/-! ### WLPB (R252, R254) -/

/-- The bits of `n` elements of EBW from entry `i` on. -/
def elementBits (range n i : Nat) (w : Writer) : List Bool :=
  (List.range' i n).flatMap fun j => intBits range ((readEbwEntry w j).toNat : Int)

/-- Writing neither changes an entry of EBW nor begins a new life of BW. -/
theorem ProducesBits.elementBits_eq {bits : List Bool} {w w' : Writer} (h : ProducesBits bits w w') (range n i : Nat) :
    elementBits range n i w' = elementBits range n i w := by
  simp only [elementBits, readEbwEntry, h.ebw, h.past]

theorem wElements_produces {range : Nat} (pos : 1 ≤ range) (max : range ≤ 8) (n i : Nat) {w : Writer}
    (room : w.cur.val < 8) : Produces (elementBits range n i w) () w (wElements range n i w) := by
  induction n generalizing i w with
  | zero => exact .nothing () room
  | succ n ih =>
    have split : elementBits range (n + 1) i w =
        intBits range (low ((readEbwEntry w i).toNat : Int) range) ++ elementBits range n (i + 1) w := by
      rw [intBits_low le_rfl, elementBits, List.range'_succ, List.flatMap_cons, elementBits]
    rw [split]
    refine (wBits8_produces pos max _ w).seq fun w₁ written => ?_
    rw [← written.elementBits_eq]
    exact ih (i + 1) written.cur_lt

/-- WLPB is a write of the count and then of the elements. -/
theorem semWlpb_produces {scale range n : Nat} {opv : Word64} (scaleMin : 1 ≤ scale) (scaleMax : scale ≤ 16)
    (rangeMin : 1 ≤ range) (rangeMax : range ≤ 8) (count : opvInt32 opv = n) (fits : n < 2 ^ scale) (w : Writer) :
    Produces (intBits scale (n : Int) ++ elementBits range n 0 w) 0 w (semWlpb scale range opv w) := by
  have legal : (inRange 1 16 scale && inRange 1 8 range && fitsU scale (n : Int)) = true := by
    rw [Bool.and_eq_true, Bool.and_eq_true, inRange_iff, inRange_iff, fitsU_iff]
    exact ⟨⟨⟨scaleMin, scaleMax⟩, rangeMin, rangeMax⟩, Int.natCast_nonneg n, by exact_mod_cast fits⟩
  rw [semWlpb, count, if_pos legal, Int.toNat_natCast]
  refine (wU32_produces scaleMin _ w).seq fun w₁ written => ?_
  rw [← written.elementBits_eq]
  exact (wElements_produces rangeMin rangeMax n 0 written.cur_lt).returning 0

/-- Settles O28: WLPB is one write, and EBW is as it was when the elements are read. -/
theorem prefixedWriteProducesCountAndElements : Obligations.PrefixedWriteProducesCountAndElements := by
  unfold Obligations.PrefixedWriteProducesCountAndElements
  intro s scale range n accepts _ scaleMin scaleMax rangeMin rangeMax count fits
  rw [List.range_eq_range']
  exact runWriter_of_accepted accepts (semWlpb_produces scaleMin scaleMax rangeMin rangeMax count fits s.bw)

/-! ### WALIGN (R253, R257) -/

section
variable {w w' : Writer} {bd : Nat}

theorem missingBits_eq (room : w.cur.val < 8) : missingBits w = (8 - w.cur.val) % 8 := by
  unfold missingBits
  split <;> omega

/-- Finishing the byte pushes it, if one was started. -/
theorem pushesFor_missingBits (room : w.cur.val < 8) :
    pushesFor (missingBits w) w = if 0 < w.cur.val then 1 else 0 := by
  unfold pushesFor missingBits
  split <;> omega

/-- The padding in the terms of R257. -/
theorem paddingBits_eq (room : w.cur.val < 8) (bd : Nat) :
    paddingBits bd w =
      (8 - w.cur.val) % 8 + 8 * ((bd - (w.cnt + if 0 < w.cur.val then 1 else 0) % bd) % bd) := by
  rw [paddingBits, pushesFor_missingBits room, missingBits_eq room, zeroBytesToBoundary]

/-- Writing the padding leaves no bit pending and the counter aligned. -/
theorem ProducesBits.at_boundary (h : ProducesBits (List.replicate (paddingBits bd w) false) w w')
    (room : w.cur.val < 8) (pos : 0 < bd) : w'.cur.val = 0 ∧ w'.cnt % bd = 0 := by
  have cursor := h.cur_eq
  have count := h.count
  rw [List.length_replicate, paddingBits] at cursor count
  have whole (m k : Nat) : pushesFor (m + 8 * k) w = pushesFor m w + k := by
    unfold pushesFor
    omega
  rw [whole, ← Nat.add_assoc] at count
  exact ⟨cursor.trans (missingBits_boundary room _), count ▸ add_bytesToBoundary_mod pos _⟩

/-- At a boundary there is nothing to pad. -/
theorem semWalign_at_boundary {opv : Word64} (pos : 0 < opvInt32 opv) (empty : w.cur.val = 0)
    (aligned : w.cnt % (opvInt32 opv).toNat = 0) : semWalign opv w = .done 0 w := by
  have aligning : zeroBytesToBoundary (opvInt32 opv).toNat w.cnt = 0 := by
    rw [zeroBytesToBoundary, aligned, Nat.sub_zero, Nat.mod_self]
  simp [semWalign, pos.not_ge, wFinishByte, missingBits, empty, aligning, wZeroBytes, zext64]

end

/-- Settles O29: WALIGN is one write of zeros, and `ProducesBits` places BW. -/
theorem writerAlignPadsToTheBoundary : Obligations.WriterAlignPadsToTheBoundary := by
  unfold Obligations.WriterAlignPadsToTheBoundary
  intro s accepts room pos bd started bits accepted
  have padding : paddingBits bd s.bw = bits := paddingBits_eq room bd
  rw [← padding] at accepted ⊢
  obtain ⟨t, run, response, written, frame⟩ :=
    runWriter_of_accepted accepts (semWalign_produces pos room) (by rwa [List.length_replicate])
  obtain ⟨empty, aligned⟩ := written.at_boundary room (by omega)
  exact ⟨t, run, response, written, empty, aligned, frame⟩

/-! ### WCLOSE (R258) -/

/-- Settles O30: the byte is finished as WALIGN does it, and the answer of the close decides. -/
theorem writerCloseDrainsAndCloses : Obligations.WriterCloseDrainsAndCloses := by
  unfold Obligations.WriterCloseDrainsAndCloses
  intro s accepts room bits accepted a
  have missing : missingBits s.bw = bits := missingBits_eq room
  rw [← missing] at accepted ⊢
  obtain ⟨w, finish, written⟩ := (wFinishByte_produces room).done_of_accepted (by rwa [List.length_replicate])
  refine ⟨w, written, wFinishByte_done finish, ?_⟩
  simp only [exec, execWclose, runWriter, accepts, semWclose, finish, Res.bind_done, wCloseChannel_eq,
    written.closeAnswers, a]
  cases s.bw.snk.closeAnswers.headD .ok with
  | ok => rfl
  | fail code => rfl
  | noAnswer => rfl

/-! ### A refused push -/

/-- Settles O32: the triples behind O28 and O29, and for WCLOSE that of the byte it finishes, after which nothing runs. -/
theorem compositeWritesStopAtAFailedPush : Obligations.CompositeWritesStopAtAFailedPush := by
  unfold Obligations.CompositeWritesStopAtAFailedPush
  intro s k a accepts room accepted answer notOk
  have refused : s.bw.RefusesPush k a := ⟨accepted, answer, notOk⟩
  refine ⟨?_, ?_, ?_⟩
  · intro scale range n scaleMin scaleMax rangeMin rangeMax count fits
    rw [List.range_eq_range']
    exact fun needed => runWriter_of_refused accepts
      (semWlpb_produces scaleMin scaleMax rangeMin rangeMax count fits s.bw) needed refused
  · intro pos bd started bits needed
    have padding : paddingBits bd s.bw = bits := paddingBits_eq room bd
    rw [← padding] at needed ⊢
    exact runWriter_of_refused accepts (semWalign_produces pos room) (by rwa [List.length_replicate]) refused
  · rw [← missingBits_eq room]
    intro needed
    have pushed : k < pushesFor (List.replicate (missingBits s.bw) false).length s.bw := by
      rwa [List.length_replicate]
    exact runWriter_of_refused accepts ((wFinishByte_produces room).bind_of_refused pushed refused 0 _) pushed refused

/-! ### Alignments with status 0 (R257) -/

/-- A WALIGN with status 0 had a positive boundary, and has written and counted its padding. -/
theorem walign_ok {s t : State} {v : Word64} (room : s.bw.cur.val < 8) (run : exec .walign s = .next t)
    (ok : t.response = some { status := .ok, res := v }) :
    0 < opvInt32 s.opv ∧ v = zext64 (paddingBits (opvInt32 s.opv).toNat s.bw) ∧
      ProducesBits (List.replicate (paddingBits (opvInt32 s.opv).toNat s.bw) false) s.bw t.bw := by
  obtain ⟨-, done⟩ := runWriter_ok (sem := semWalign s.opv) run ok
  have pos : 0 < opvInt32 s.opv := by
    by_contra bad
    simp [semWalign, not_lt.1 bad] at done
  have ends := semWalign_produces pos room
  rw [done] at ends
  exact ⟨pos, ends.1, ends.2.2⟩

/-- A BR command that answers with status 0 has run its `Sem` to the end. -/
theorem runReader_ok {sem : Reader → Res Reader Word64} {s t : State} {v : Word64} (run : runReader sem s = .next t)
    (ok : t.response = some { status := .ok, res := v }) : s.br.refuses = false ∧ sem s.br = .done v t.br := by
  obtain ⟨-, rfl⟩ | ⟨accepts, ⟨u, r, done, rfl⟩ | ⟨e, r, -, rfl⟩ | ⟨r, -, rfl⟩⟩ := runReader_cases run
  · simp at ok
  · obtain rfl : u = v := by simpa using ok
    exact ⟨accepts, done⟩
  · simp at ok
  · simp at ok

/-- A RALIGN with status 0 had a positive boundary, and has discarded and counted the bits up to it. -/
theorem ralign_ok {s t : State} {v : Word64} (run : exec .ralign s = .next t)
    (ok : t.response = some { status := .ok, res := v }) :
    0 < opvInt32 s.opv ∧ v = zext64 (bitsToBoundary (opvInt32 s.opv).toNat s.br) ∧
      ConsumesBits (bitsToBoundary (opvInt32 s.opv).toNat s.br) s.br t.br := by
  obtain ⟨-, done⟩ := runReader_ok (sem := semRalign s.opv) run ok
  have pos : 0 < opvInt32 s.opv := by
    by_contra bad
    simp [semRalign, not_lt.1 bad] at done
  have ends := semRalign_delivers pos s.br
  rw [done] at ends
  exact ⟨pos, ends.2.1, ends.2.2.consumes⟩

/-- At a boundary there is nothing to discard. -/
theorem semRalign_at_boundary {opv : Word64} {r : Reader} (pos : 0 < opvInt32 opv) (consumed : r.cur.val = 8)
    (aligned : r.cnt % (opvInt32 opv).toNat = 0) : semRalign opv r = .done 0 r := by
  have aligning : bytesToBoundary (opvInt32 opv).toNat r.cnt = 0 := by
    rw [bytesToBoundary, aligned, Nat.sub_zero, Nat.mod_self]
  simp [semRalign, pos.not_ge, rDropBuffered, bufferedBits, consumed, aligning, rDiscardBytes, zext64]

theorem runWriter_of_unchanged {sem : Writer → Res Writer Word64} {s : State} {v : Word64}
    (accepts : s.bw.refuses = false) (same : sem s.bw = .done v s.bw) :
    runWriter sem s = .next { s with response := some { status := .ok, res := v } } := by
  simp only [runWriter, accepts, same]
  rfl

theorem runReader_of_unchanged {sem : Reader → Res Reader Word64} {s : State} {v : Word64}
    (accepts : s.br.refuses = false) (same : sem s.br = .done v s.br) :
    runReader sem s = .next { s with response := some { status := .ok, res := v } } := by
  simp only [runReader, accepts, same]
  rfl

/-- Settles O45: the first align leaves its unit at the boundary, where the second finds nothing to do. -/
theorem alignIsIdempotent : Obligations.AlignIsIdempotent := by
  unfold Obligations.AlignIsIdempotent
  refine ⟨?_, ?_⟩
  · rintro s t accepts room run ⟨v, ok⟩
    obtain ⟨pos, -, written⟩ := walign_ok room run ok
    obtain ⟨empty, aligned⟩ := written.at_boundary room (by omega)
    have accepts' : t.bw.refuses = false := by
      rw [Writer.refuses, written.err, written.closed]
      exact accepts
    rw [← (exec_extends run).2.2.opv] at pos aligned
    exact runWriter_of_unchanged accepts' (semWalign_at_boundary pos empty aligned)
  · rintro s t accepts run ⟨v, ok⟩
    obtain ⟨pos, -, read⟩ := ralign_ok run ok
    obtain ⟨consumed, aligned⟩ := read.at_boundary (by omega)
    have accepts' : t.br.refuses = false := by
      rw [Reader.refuses, read.err, read.closed]
      exact accepts
    rw [← (exec_extends run).2.2.opv] at pos aligned
    exact runReader_of_unchanged accepts' (semRalign_at_boundary pos consumed aligned)

/-- At the same stream position (R32) BW lacks as many bits to the boundary as BR has left before it: either both stand
between two bytes, or BR has pulled the byte that BW has only started. -/
theorem paddingBits_eq_bitsToBoundary {w : Writer} {r : Reader} (room : w.cur.val < 8) (started : 1 ≤ r.cur.val)
    (mirrored : 8 * r.cnt + r.cur.val = 8 * w.cnt + w.cur.val + 8) (bd : Nat) :
    paddingBits bd w = bitsToBoundary bd r := by
  have missing : missingBits w = bufferedBits r := by
    unfold missingBits bufferedBits
    split <;> omega
  have count : w.cnt + pushesFor (missingBits w) w = r.cnt := by
    rw [pushesFor_missingBits room]
    split <;> omega
  rw [paddingBits, count, missing]
  rfl

/-- Settles O46: both results are numbers of bits to the boundary, and these agree at mirrored positions. -/
theorem paddingWrittenIsPaddingSkipped : Obligations.PaddingWrittenIsPaddingSkipped := by
  unfold Obligations.PaddingWrittenIsPaddingSkipped
  intro s t u x y _ room _ mirrored started writes writesOk reads readsOk
  obtain ⟨-, rfl, -⟩ := walign_ok room writes writesOk
  obtain ⟨-, rfl, -⟩ := ralign_ok reads readsOk
  rw [paddingBits_eq_bitsToBoundary room started mirrored]

end Sys2Proof.Machine
end

section
/-!
PROOF. When nothing happens (R298, R334), and the words that are no legal encoding or meet a unit that refuses (R110, R284,
R285): a unit that refuses answers every word but its counter read in the same way, legal or not.
-/
namespace Sys2Proof.Machine

/-! ### Steps without an action -/

theorem step_of_no_action {s : State} (none : nextAction s = none) : step s = .next s := by rw [step, none]

theorem nextAction_of_empty {s : State} (empty : s.host = []) : nextAction s = none := by rw [nextAction, empty]

/-- While a command is unfinished only a reset is taken. -/
theorem nextAction_of_waiting {s : State} (unfinished : s.hung.isSome = true)
    (noReset : ∀ a rest, s.host = a :: rest → a.isReset = false) : nextAction s = none := by
  cases head : s.host with
  | nil => exact nextAction_of_empty head
  | cons a rest => simp [nextAction, head, unfinished, noReset a rest head]

/-- Settles O8: in both situations there is no action to take. -/
theorem unfinishedCommandHoldsTheBlock : Obligations.UnfinishedCommandHoldsTheBlock :=
  ⟨fun _ unfinished noReset => step_of_no_action (nextAction_of_waiting unfinished noReset),
    fun _ empty => step_of_no_action (nextAction_of_empty empty)⟩

/-! ### The unit a word selects -/

theorem unitOf_of_lt {cmd : Word32} (h : fieldOp cmd < 128) : unitOf cmd = .br := by
  simp [unitOf, selectsWriter, h]

theorem unitOf_of_le {cmd : Word32} (h : 128 ≤ fieldOp cmd) : unitOf cmd = .bw := by
  simp [unitOf, selectsWriter, h]

/-- A legal word selects the unit of its command (R101). -/
theorem unitOf_of_decode {cmd : Word32} {i : Instr} (legal : decode cmd = .ok i) : unitOf cmd = unitOfInstr i := by
  obtain ⟨op, -⟩ := hasFields_of_decode legal
  rw [unitOf, unitOfInstr, selectsWriter, Instr.onWriter, op]

theorem unitOfInstr_of_reader {i : Instr} (unit : i.onWriter = false) : unitOfInstr i = .br := by
  simp [unitOfInstr, unit]

theorem unitOfInstr_of_writer {i : Instr} (unit : i.onWriter = true) : unitOfInstr i = .bw := by
  simp [unitOfInstr, unit]

/-! ### Illegal words -/

theorem rejectIllegal_of_refuses {cmd : Word32} {s : State} (refuses : s.unitRefuses (unitOf cmd) = true) :
    rejectIllegal cmd s = .next (s.respond .refused 0) := if_pos refuses

theorem rejectIllegal_of_accepts {cmd : Word32} {s : State} (accepts : s.unitRefuses (unitOf cmd) = false) :
    rejectIllegal cmd s = .next (s.takeError (unitOf cmd) .illegalCommand) := by
  simp [rejectIllegal, accepts]

/-- Settles O7: the rejection takes the error on the unit the word selects. -/
theorem illegalWordsPoisonTheSelectedUnit : Obligations.IllegalWordsPoisonTheSelectedUnit := by
  unfold Obligations.IllegalWordsPoisonTheSelectedUnit
  intro s cmd e illegal
  rw [runCommand_of_error illegal]
  refine ⟨fun reader err closed => ?_, fun writer err closed => ?_⟩
  · have unit := unitOf_of_lt reader
    have accepts : s.br.refuses = false := (Reader.refuses_eq_false s.br).2 ⟨err, closed⟩
    rw [rejectIllegal_of_accepts (by rw [unit]; exact accepts), unit]
    rfl
  · have unit := unitOf_of_le writer
    have accepts : s.bw.refuses = false := (Writer.refuses_eq_false s.bw).2 ⟨err, closed⟩
    rw [rejectIllegal_of_accepts (by rw [unit]; exact accepts), unit]
    rfl

/-! ### Units that refuse -/

theorem Reader.refuses_eq_true (r : Reader) : r.refuses = true ↔ r.err ≠ none ∨ r.closed = true := by
  rw [← Bool.not_eq_false, Reader.refuses_eq_false, not_and_or, Bool.not_eq_false]

theorem Writer.refuses_eq_true (w : Writer) : w.refuses = true ↔ w.err ≠ none ∨ w.closed = true := by
  rw [← Bool.not_eq_false, Writer.refuses_eq_false, not_and_or, Bool.not_eq_false]

/-- A refusing unit runs no command but its counter read. -/
theorem exec_of_refuses {i : Instr} {s : State} (other : isCounterRead i = false)
    (refuses : s.unitRefuses (unitOfInstr i) = true) : exec i s = .next (s.respond .refused 0) := by
  obtain ⟨reader, noCount⟩ | ⟨writer, noCount⟩ | rfl | rfl := Instr.kinds i
  · obtain ⟨sem, exec_eq⟩ := exec_reader i reader noCount
    rw [unitOfInstr_of_reader reader] at refuses
    rw [exec_eq, runReader_of_refuses refuses]
  · obtain ⟨sem, exec_eq⟩ := exec_writer i writer noCount
    rw [unitOfInstr_of_writer writer] at refuses
    rw [exec_eq, runWriter_of_refuses refuses]
  · cases other
  · cases other

/-- Legal or not, a word for a refusing unit is answered with REFUSED. -/
theorem runCommand_of_refuses {cmd : Word32} {s : State} (other : ∀ i, decode cmd = .ok i → isCounterRead i = false)
    (refuses : s.unitRefuses (unitOf cmd) = true) : runCommand cmd s = .next (s.respond .refused 0) := by
  cases decoded : decode cmd with
  | ok i =>
    rw [unitOf_of_decode decoded] at refuses
    rw [runCommand_of_ok decoded, exec_of_refuses (other i decoded) refuses]
  | error e => rw [runCommand_of_error decoded, rejectIllegal_of_refuses refuses]

/-- Settles O34: whatever the word decodes to, the unit it selects refuses it. -/
theorem poisonedOrClosedUnitsRefuse : Obligations.PoisonedOrClosedUnitsRefuse := by
  unfold Obligations.PoisonedOrClosedUnitsRefuse
  intro s cmd other
  refine ⟨fun reader cause => runCommand_of_refuses other ?_, fun writer cause => runCommand_of_refuses other ?_⟩
  · rw [unitOf_of_lt reader]
    exact (Reader.refuses_eq_true s.br).2 cause
  · rw [unitOf_of_le writer]
    exact (Writer.refuses_eq_true s.bw).2 cause

end Sys2Proof.Machine
end

section
/-!
PROOF. How a command ends (R281 to R285, R299): `MayRaise` says which raises a command can end with, and `Runs` that
its pseudocode ends with no other one and leaves `ERR` to the wrapper. The triples of the reads and writes give this for
valid operands, and for invalid ones the validation is all that runs. `exec_answers` then says once how every command is
answered.
-/
namespace Sys2Proof.Machine

/-! ### Invalid operands (R281) -/

/-- A test of a length that fails is all of the command. -/
theorem raise_of_outside {σ α : Type} {min max len : Nat} (bad : len < min ∨ max < len) (x : σ → Res σ α) :
    (fun u => if inRange min max len then x u else .raise .invalidArgument u) = Res.raise Raise.invalidArgument := by
  have failed : ¬ inRange min max len = true := by
    rw [inRange_iff]
    omega
  exact funext fun u => if_neg failed

theorem semRlpb_of_invalid {scale range : Nat} (bad : scale < 1 ∨ 16 < scale ∨ range < 1 ∨ 8 < range) :
    semRlpb scale range = .raise .invalidArgument := by
  have failed : ¬ (inRange 1 16 scale && inRange 1 8 range) = true := by
    rw [Bool.and_eq_true, inRange_iff, inRange_iff]
    omega
  exact funext fun r => if_neg failed

theorem semWlpb_test_iff (scale range : Nat) (v : Int) :
    (inRange 1 16 scale && inRange 1 8 range && fitsU scale v) = true ↔
      ¬ (scale < 1 ∨ 16 < scale ∨ range < 1 ∨ 8 < range ∨ ¬ (0 ≤ v ∧ v < 2 ^ scale)) := by
  rw [Bool.and_eq_true, Bool.and_eq_true, inRange_iff, inRange_iff, fitsU_iff]
  omega

theorem exec_reader_of_invalid {i : Instr} {s : State} (unit : i.onWriter = false) (bad : invalidOperands i s.opv) :
    exec i s = runReader (.raise .invalidArgument) s := by
  cases i with
  | ru8 _ | ru16 _ | ru32 _ | rs32 _ | ru64 _ | rs64 _ => exact congrArg (runReader · s) (raise_of_outside bad _)
  | rlpb _ _ => exact congrArg (runReader · s) (semRlpb_of_invalid bad)
  | ralign => exact congrArg (runReader · s) (funext fun r => if_pos bad)
  | rbool | rf32 | rf64 | rclose | rcnt => exact bad.elim
  | _ => simp [Instr.onWriter, opcodeOf] at unit

theorem exec_writer_of_invalid {i : Instr} {s : State} (unit : i.onWriter = true) (bad : invalidOperands i s.opv) :
    exec i s = runWriter (.raise .invalidArgument) s := by
  cases mirror : mirrorOf i with
  | some j =>
    obtain ⟨sem, writes⟩ := value_writes mirror s.opv
    exact (writes.exec_eq s rfl).trans (congrArg (runWriter · s) (funext (writes.invalid bad)))
  | none =>
    cases i with
    | wlpb scale range =>
      exact congrArg (runWriter · s) (funext fun w => if_neg fun passed => (semWlpb_test_iff ..).1 passed bad)
    | walign => exact congrArg (runWriter · s) (funext fun w => if_pos bad)
    | wclose | wcnt => exact bad.elim
    | wbool | wu8 _ | wu16 _ | wu32 _ | ws32 _ | wu64 _ | ws64 _ | wf32 | wf64 => cases mirror
    | _ => simp [Instr.onWriter, opcodeOf] at unit

theorem runReader_of_raise {s : State} (accepts : s.br.refuses = false) (e : Raise) :
    runReader (.raise e) s = .next (s.takeError .br e) := by
  simp only [runReader, accepts]
  rfl

theorem runWriter_of_raise {s : State} (accepts : s.bw.refuses = false) (e : Raise) :
    runWriter (.raise e) s = .next (s.takeError .bw e) := by
  simp only [runWriter, accepts]
  rfl

/-! ### The rows of the status table (R299) -/

/-- Every command can complete, and every one but the counter reads can be refused and can meet a channel's failure. -/
theorem ok_mem_statusesOf (i : Instr) : 0 ∈ statusesOf i := by
  cases i <;> simp [statusesOf]

theorem refused_mem_statusesOf {i : Instr} (other : isCounterRead i = false) : 5 ∈ statusesOf i := by
  cases i with
  | rcnt | wcnt => cases other
  | _ => simp [statusesOf]

theorem channelIOFailure_mem_statusesOf {i : Instr} (other : isCounterRead i = false) : 3 ∈ statusesOf i := by
  cases i with
  | rcnt | wcnt => cases other
  | _ => simp [statusesOf]

/-- Every command of BR that pulls can meet the end of the stream. -/
theorem endOfStream_mem_statusesOf {i : Instr} (unit : i.onWriter = false) (noClose : i ≠ .rclose)
    (other : isCounterRead i = false) : 2 ∈ statusesOf i := by
  cases i with
  | rbool | ru8 _ | ru16 _ | ru32 _ | rs32 _ | ru64 _ | rs64 _ | rf32 | rf64 | rlpb _ _ | ralign => simp [statusesOf]
  | rclose => exact absurd rfl noClose
  | rcnt => cases other
  | _ => simp [Instr.onWriter, opcodeOf] at unit

/-- A command with a cause of INVALID_ARGUMENT has that status in its row. -/
theorem invalidArgument_mem_statusesOf {i : Instr} {opv : Word64} (bad : invalidOperands i opv) : 1 ∈ statusesOf i := by
  cases i with
  | rbool | rf32 | rf64 | rclose | rcnt | wf32 | wf64 | wclose | wcnt => exact bad.elim
  | _ => simp [statusesOf]

/-! ### What a command raises -/

/-- The raises command `i` with operand `opv` can end with: INVALID_ARGUMENT for its causes, and otherwise the statuses of
its row. -/
def MayRaise (i : Instr) (opv : Word64) (e : Raise) : Prop :=
  match e with
  | .invalidArgument => invalidOperands i opv
  | .endOfStream | .channelIOFailure _ | .illegalCommand => e.kind.code ∈ statusesOf i

/-- `x`, a piece of command `i`, raises only what `i` may raise, and leaves `ERR` as it is in `u` if it returns. -/
def Runs {σ α : Type} (i : Instr) (opv : Word64) (err : σ → Option ErrorKind) (u : σ) (x : Res σ α) : Prop :=
  x.EndsIn (fun _ u' => err u' = err u)
    { done := fun _ => True, raised := fun e _ => MayRaise i opv e, hung := fun _ => True }

section
variable {i : Instr} {opv : Word64}

theorem MayRaise.code_mem {e : Raise} (h : MayRaise i opv e) : e.kind.code ∈ statusesOf i := by
  cases e with
  | invalidArgument => exact invalidArgument_mem_statusesOf h
  | endOfStream | channelIOFailure _ | illegalCommand => exact h

theorem MayRaise.invalid {e : Raise} (h : MayRaise i opv e) (kind : e.kind = .invalidArgument) :
    invalidOperands i opv := by
  cases e with
  | invalidArgument => exact h
  | endOfStream | channelIOFailure _ | illegalCommand => cases kind

theorem Runs.bind {σ α β : Type} {err : σ → Option ErrorKind} {u : σ} {x : Res σ α} {f : α → σ → Res σ β}
    (first : Runs i opv err u x) (next : ∀ v u', x = .done v u' → Runs i opv err u' (f v u')) :
    Runs i opv err u (x.bind f) :=
  Res.EndsIn.bind first fun v u' done kept =>
    (next v u' done).mono (fun _ _ kept' => kept'.trans kept) (fun _ _ raised => raised) fun _ _ => trivial

/-! ### Readers -/

/-- A read raises only for want of a byte. -/
theorem Delivers.runs {α : Type} {n : Nat} {value : List Bool → α} {r : Reader} {x : Res Reader α}
    (h : Delivers n value r x) (stream : 2 ∈ statusesOf i) (channel : 3 ∈ statusesOf i) :
    Runs i opv Reader.err r x := by
  refine Res.EndsIn.mono h (fun _ _ ⟨_, _, read⟩ => read.consumes.err) (fun e _ ⟨_, _, cause⟩ => ?_) fun _ _ => trivial
  cases e with
  | endOfStream => exact stream
  | channelIOFailure code => exact channel
  | invalidArgument | illegalCommand => cases cause

theorem CommandReads.runs {n : Nat} {value : List Bool → Word64} (h : CommandReads i n value) (stream : 2 ∈ statusesOf i)
    (channel : 3 ∈ statusesOf i) : ∃ sem : Reader → Res Reader Word64,
      (∀ s : State, s.opv = opv → exec i s = runReader sem s) ∧ ∀ r, Runs i opv Reader.err r (sem r) := by
  obtain ⟨sem, exec_eq, delivers⟩ := h
  exact ⟨sem, fun s _ => exec_eq s, fun r => (delivers r).runs stream channel⟩

/-- RCLOSE pulls nothing (R188). -/
theorem semRclose_runs (channel : 3 ∈ statusesOf i) (r : Reader) : Runs i opv Reader.err r (semRclose r) := by
  rw [semRclose_eq, rCloseChannel_eq]
  cases r.src.closeAnswers.headD .ok with
  | ok => rfl
  | fail code => exact channel
  | noAnswer => trivial

/-! ### Writers -/

/-- A write raises only for a push that fails. -/
theorem Produces.runs {α : Type} {bits : List Bool} {v : α} {w : Writer} {x : Res Writer α} (h : Produces bits v w x)
    (channel : 3 ∈ statusesOf i) : Runs i opv Writer.err w x := by
  refine Res.EndsIn.mono h (fun _ _ ⟨_, _, written⟩ => written.err) (fun e _ ⟨_, code, cause, _⟩ => ?_) fun _ _ => trivial
  subst cause
  exact channel

theorem Produces.producesBits {α : Type} {bits : List Bool} {u v : α} {w w' : Writer} {x : Res Writer α}
    (h : Produces bits v w x) (done : x = .done u w') : ProducesBits bits w w' := by
  subst done
  exact h.2.2

/-- A full window, which R21 has only in a unit that refuses or waits, lacks no bits and is flushed. -/
theorem wFinishByte_produces_of_full {w : Writer} (full : w.cur.val = 8) : Produces [] () w (wFinishByte w) := by
  have flush : wFinishByte w = wFlushIfFull w := by simp [wFinishByte, wBits8, wPiece, wPack, full]
  rw [flush]
  exact wFlushIfFull_produces w

/-- Finishing the byte is a write, whatever the window. -/
theorem exists_wFinishByte_produces (w : Writer) : ∃ bits, Produces bits () w (wFinishByte w) := by
  rcases Nat.lt_or_ge w.cur.val 8 with room | full
  · exact ⟨_, wFinishByte_produces room⟩
  · exact ⟨_, wFinishByte_produces_of_full (by omega)⟩

theorem semWalign_runs (channel : 3 ∈ statusesOf i) (pos : 0 < opvInt32 opv) (w : Writer) :
    Runs i opv Writer.err w (semWalign opv w) := by
  obtain ⟨bits, finishes⟩ := exists_wFinishByte_produces w
  rw [semWalign, if_neg pos.not_ge]
  exact (finishes.runs channel).bind fun _ w' done =>
    ((wZeroBytes_produces _ (finishes.producesBits done).cur_lt).returning _).runs channel

theorem wCloseChannel_runs (channel : 3 ∈ statusesOf i) (w : Writer) : Runs i opv Writer.err w (wCloseChannel w) := by
  rw [wCloseChannel_eq]
  cases w.snk.closeAnswers.headD .ok with
  | ok => rfl
  | fail code => exact channel
  | noAnswer => trivial

theorem semWclose_runs (channel : 3 ∈ statusesOf i) (w : Writer) : Runs i opv Writer.err w (semWclose w) := by
  obtain ⟨bits, finishes⟩ := exists_wFinishByte_produces w
  exact (finishes.runs channel).bind fun _ w' _ => (wCloseChannel_runs channel w').bind fun _ _ _ => rfl

end

/-! ### Commands -/

theorem inside_of_valid {min max len : Nat} (valid : ¬ (len < min ∨ max < len)) : min ≤ len ∧ len ≤ max := by
  omega

/-- Every BR command but RCNT, with valid operands. -/
theorem exec_reader_runs_of_valid {i : Instr} {opv : Word64} (unit : i.onWriter = false)
    (other : isCounterRead i = false) (valid : ¬ invalidOperands i opv) :
    ∃ sem : Reader → Res Reader Word64, (∀ s : State, s.opv = opv → exec i s = runReader sem s) ∧
      ∀ r, Runs i opv Reader.err r (sem r) := by
  have channel := channelIOFailure_mem_statusesOf other
  by_cases close : i = .rclose
  · subst close
    exact ⟨semRclose, fun _ _ => rfl, semRclose_runs channel⟩
  have stream := endOfStream_mem_statusesOf unit close other
  cases i with
  | rbool => exact rbool_reads.runs stream channel
  | ru8 len => exact (inside_of_valid valid).elim fun min max => (ru8_reads min max).runs stream channel
  | ru16 len => exact (inside_of_valid valid).elim fun min max => (ru16_reads min max).runs stream channel
  | ru32 len => exact (inside_of_valid valid).elim fun min max => (ru32_reads min max).runs stream channel
  | rs32 len => exact (inside_of_valid valid).elim fun min max => (rs32_reads min max).runs stream channel
  | ru64 len => exact (inside_of_valid valid).elim fun min max => (ru64_reads min max).runs stream channel
  | rs64 len => exact (inside_of_valid valid).elim fun min max => (rs64_reads min max).runs stream channel
  | rf32 => exact rf32_reads.runs stream channel
  | rf64 => exact rf64_reads.runs stream channel
  | rlpb scale range =>
    obtain ⟨scaleMin, scaleMax, rangeMin, rangeMax⟩ : 1 ≤ scale ∧ scale ≤ 16 ∧ 1 ≤ range ∧ range ≤ 8 := by
      simpa only [invalidOperands, not_or, not_lt] using valid
    exact ⟨semRlpb scale range, fun _ _ => rfl, fun r =>
      (semRlpb_delivers scaleMin scaleMax rangeMin rangeMax r).runs stream channel⟩
  | ralign =>
    exact ⟨semRalign opv, fun _ operand => operand ▸ rfl, fun r =>
      (semRalign_delivers (not_le.1 valid) r).runs stream channel⟩
  | rclose => exact absurd rfl close
  | rcnt => cases other
  | _ => simp [Instr.onWriter, opcodeOf] at unit

/-- Every BW command but WCNT, with valid operands. -/
theorem exec_writer_runs_of_valid {i : Instr} {opv : Word64} (unit : i.onWriter = true)
    (other : isCounterRead i = false) (valid : ¬ invalidOperands i opv) :
    ∃ sem : Writer → Res Writer Word64, (∀ s : State, s.opv = opv → exec i s = runWriter sem s) ∧
      ∀ w, Runs i opv Writer.err w (sem w) := by
  have channel := channelIOFailure_mem_statusesOf other
  cases mirror : mirrorOf i with
  | some j =>
    obtain ⟨sem, writes⟩ := value_writes mirror opv
    exact ⟨sem, writes.exec_eq, fun w => (writes.produces valid w).runs channel⟩
  | none =>
    cases i with
    | wlpb scale range =>
      obtain ⟨scaleMin, scaleMax, rangeMin, rangeMax, nonneg, fits⟩ : 1 ≤ scale ∧ scale ≤ 16 ∧ 1 ≤ range ∧ range ≤ 8 ∧
          0 ≤ opvInt32 opv ∧ opvInt32 opv < 2 ^ scale := by
        simpa only [invalidOperands, not_or, not_lt, not_not] using valid
      obtain ⟨n, count⟩ := Int.eq_ofNat_of_zero_le nonneg
      have fits : n < 2 ^ scale := by
        rw [count] at fits
        exact_mod_cast fits
      exact ⟨semWlpb scale range opv, fun _ operand => operand ▸ rfl, fun w =>
        (semWlpb_produces scaleMin scaleMax rangeMin rangeMax count fits w).runs channel⟩
    | walign =>
      exact ⟨semWalign opv, fun _ operand => operand ▸ rfl, semWalign_runs channel (not_le.1 valid)⟩
    | wclose => exact ⟨semWclose, fun _ _ => rfl, semWclose_runs channel⟩
    | wcnt => cases other
    | wbool | wu8 _ | wu16 _ | wu32 _ | ws32 _ | wu64 _ | ws64 _ | wf32 | wf64 => cases mirror
    | _ => simp [Instr.onWriter, opcodeOf] at unit

/-- Every BR command but RCNT: with invalid operands the validation is all that runs. -/
theorem exec_reader_runs {i : Instr} (unit : i.onWriter = false) (other : isCounterRead i = false) (s : State) :
    ∃ sem : Reader → Res Reader Word64, exec i s = runReader sem s ∧ Runs i s.opv Reader.err s.br (sem s.br) := by
  by_cases bad : invalidOperands i s.opv
  · exact ⟨_, exec_reader_of_invalid unit bad, bad⟩
  · obtain ⟨sem, exec_eq, runs⟩ := exec_reader_runs_of_valid unit other bad
    exact ⟨sem, exec_eq s rfl, runs s.br⟩

/-- Every BW command but WCNT, likewise. -/
theorem exec_writer_runs {i : Instr} (unit : i.onWriter = true) (other : isCounterRead i = false) (s : State) :
    ∃ sem : Writer → Res Writer Word64, exec i s = runWriter sem s ∧ Runs i s.opv Writer.err s.bw (sem s.bw) := by
  by_cases bad : invalidOperands i s.opv
  · exact ⟨_, exec_writer_of_invalid unit bad, bad⟩
  · obtain ⟨sem, exec_eq, runs⟩ := exec_writer_runs_of_valid unit other bad
    exact ⟨sem, exec_eq s rfl, runs s.bw⟩

/-! ### How every command is answered -/

/-- `ERR` of a unit. -/
def State.errOf (s : State) (u : UnitId) : Option ErrorKind :=
  match u with
  | .br => s.br.err
  | .bw => s.bw.err

/-- `ERR` of both units is as it was. -/
def SameErrors (s t : State) : Prop := t.br.err = s.br.err ∧ t.bw.err = s.bw.err

/-- The four ways command `i` can lead from `s` to `t`. -/
inductive AnswersTo (i : Instr) (s t : State) : Prop
  | refused (response : t.response = some { status := .refused, res := 0 }) (other : isCounterRead i = false)
    (same : SameErrors s t)
  | completed (v : Word64) (response : t.response = some { status := .ok, res := v }) (same : SameErrors s t)
  | failed (e : Raise) (response : t.response = some { status := .error e.kind, res := e.res })
    (cause : MayRaise i s.opv e) (clean : s.errOf (unitOfInstr i) = none)
    (recorded : t.errOf (unitOfInstr i) = some e.kind)
  | unfinished (response : t.response = none)

theorem exec_reader_answers {i : Instr} {s t : State} (unit : i.onWriter = false) (other : isCounterRead i = false)
    (h : exec i s = .next t) : AnswersTo i s t := by
  obtain ⟨sem, exec_eq, runs⟩ := exec_reader_runs unit other s
  rw [exec_eq] at h
  obtain ⟨-, rfl⟩ | ⟨accepts, ⟨v, r, eq, rfl⟩ | ⟨e, r, eq, rfl⟩ | ⟨r, -, rfl⟩⟩ := runReader_cases h
  · exact .refused rfl other ⟨rfl, rfl⟩
  · rw [eq] at runs
    exact .completed v rfl ⟨runs, rfl⟩
  · rw [eq] at runs
    refine .failed e rfl runs ?_ ?_ <;> rw [unitOfInstr_of_reader unit]
    · exact ((Reader.refuses_eq_false s.br).1 accepts).1
    · rfl
  · exact .unfinished rfl

theorem exec_writer_answers {i : Instr} {s t : State} (unit : i.onWriter = true) (other : isCounterRead i = false)
    (h : exec i s = .next t) : AnswersTo i s t := by
  obtain ⟨sem, exec_eq, runs⟩ := exec_writer_runs unit other s
  rw [exec_eq] at h
  obtain ⟨-, rfl⟩ | ⟨accepts, ⟨v, w, eq, rfl⟩ | ⟨e, w, eq, rfl⟩ | ⟨w, -, rfl⟩⟩ := runWriter_cases h
  · exact .refused rfl other ⟨rfl, rfl⟩
  · rw [eq] at runs
    exact .completed v rfl ⟨rfl, runs⟩
  · rw [eq] at runs
    refine .failed e rfl runs ?_ ?_ <;> rw [unitOfInstr_of_writer unit]
    · exact ((Writer.refuses_eq_false s.bw).1 accepts).1
    · rfl
  · exact .unfinished rfl

theorem runCounter_answers {i : Instr} {cnt : Nat} {s t : State} (h : runCounter cnt s = .next t) : AnswersTo i s t := by
  obtain ⟨-, rfl⟩ := runCounter_cases h
  exact .completed _ rfl ⟨rfl, rfl⟩

theorem exec_answers {i : Instr} {s t : State} (h : exec i s = .next t) : AnswersTo i s t := by
  cases counter : isCounterRead i with
  | true =>
    obtain rfl | rfl : i = .rcnt ∨ i = .wcnt := by simpa [isCounterRead] using counter
    · exact runCounter_answers h
    · exact runCounter_answers h
  | false =>
    cases unit : i.onWriter with
    | false => exact exec_reader_answers unit counter h
    | true => exact exec_writer_answers unit counter h

/-! ### The statements -/

/-- Settles O33: invalid operands leave only the validation, and no other command raises INVALID_ARGUMENT. -/
theorem invalidArgumentsChangeNothingButTheError : Obligations.InvalidArgumentsChangeNothingButTheError := by
  unfold Obligations.InvalidArgumentsChangeNothingButTheError
  refine ⟨fun i s bad => ⟨fun unit accepts => ?_, fun unit accepts => ?_⟩, fun i s t res h answer => ?_⟩
  · rw [exec_reader_of_invalid unit bad, runReader_of_raise accepts]
    rfl
  · rw [exec_writer_of_invalid unit bad, runWriter_of_raise accepts]
    rfl
  · cases exec_answers h with
    | failed e response cause =>
      obtain ⟨kind, -⟩ : e.kind = .invalidArgument ∧ e.res = res := by simpa [response] using answer
      exact cause.invalid kind
    | refused response | completed _ response | unfinished response => simp [response] at answer

/-- RES is 0 for every raise but a channel's failure (R109). -/
theorem Raise.res_eq_zero {e : Raise} (h : e.kind.code ≠ 3) : e.res = 0 := by
  cases e with
  | channelIOFailure _ => exact absurd rfl h
  | invalidArgument | endOfStream | illegalCommand => rfl

/-- Settles O36: each kind of answer is in the row, a raise because the command may end with it. -/
theorem responsesStayInTheStatusTable : Obligations.ResponsesStayInTheStatusTable := by
  unfold Obligations.ResponsesStayInTheStatusTable
  intro i s t resp h answer
  cases exec_answers h with
  | refused response other =>
    cases response.symm.trans answer
    exact ⟨refused_mem_statusesOf other, fun _ _ => rfl⟩
  | completed v response =>
    cases response.symm.trans answer
    exact ⟨ok_mem_statusesOf i, fun bad => absurd rfl bad⟩
  | failed e response cause =>
    cases response.symm.trans answer
    exact ⟨cause.code_mem, fun _ => Raise.res_eq_zero⟩
  | unfinished response => cases response.symm.trans answer

/-- Settles O37: the wrapper records a raise in the unit, which had no error because it ran the command. -/
theorem errorsAreRecordedInTheirUnit : Obligations.ErrorsAreRecordedInTheirUnit := by
  unfold Obligations.ErrorsAreRecordedInTheirUnit
  intro i s t h
  cases exec_answers h with
  | refused response _ same | completed _ response same => exact ⟨by simp [response], fun _ _ => same⟩
  | unfinished response => simp [response]
  | failed e response _ clean recorded =>
    refine ⟨fun k res answer => ?_, by simp [response]⟩
    cases response.symm.trans answer
    refine ⟨fun unit => ?_, fun unit => ?_⟩
    · rw [unitOfInstr_of_reader unit] at clean recorded
      exact ⟨clean, recorded, (exec_reader_independent unit h).1⟩
    · rw [unitOfInstr_of_writer unit] at clean recorded
      exact ⟨clean, recorded, (exec_writer_independent unit h).1⟩

end Sys2Proof.Machine
end

section
/-!
PROOF. A command completes exactly when its transfers are answered (R334): between micro-operations every transfer of the
command has been answered, and a command hangs right after a transfer that was not. Both are what the rules of the units ask.
-/
namespace Sys2Proof.Machine

/-! ### Histories that grow by answered transfers -/

section
variable {ε σ : Type} {answered : ε → Bool} {start now : List ε}

/-- The history grew from `start` to `now` by transfers that were all answered. -/
def AllAnswered (answered : ε → Bool) (start now : List ε) : Prop :=
  ∃ new, now = start ++ new ∧ ∀ e ∈ new, answered e = true

/-- The history grew from `start` to `now`, and the last transfer was not answered. -/
def LastUnanswered (answered : ε → Bool) (start now : List ε) : Prop :=
  ∃ new e, now = start ++ (new ++ [e]) ∧ answered e = false

/-- A command ends by itself with all its transfers answered, and hangs at one that was not. -/
def Leaves.byAnswers (answered : ε → Bool) (history : σ → List ε) (start : List ε) : Leaves σ where
  done u := AllAnswered answered start (history u)
  raised _ u := AllAnswered answered start (history u)
  hung u := LastUnanswered answered start (history u)

theorem AllAnswered.refl (answered : ε → Bool) (start : List ε) : AllAnswered answered start start :=
  ⟨[], by simp⟩

theorem AllAnswered.concat (h : AllAnswered answered start now) {e : ε} (answer : answered e = true) :
    AllAnswered answered start (now ++ [e]) := by
  obtain ⟨new, rfl, all⟩ := h
  refine ⟨new ++ [e], List.append_assoc .., fun x hx => ?_⟩
  obtain old | last := List.mem_append.1 hx
  · exact all x old
  · rwa [List.mem_singleton.1 last]

theorem AllAnswered.concat_unanswered (h : AllAnswered answered start now) {e : ε} (noAnswer : answered e = false) :
    LastUnanswered answered start (now ++ [e]) := by
  obtain ⟨new, rfl, -⟩ := h
  exact ⟨new, e, List.append_assoc .., noAnswer⟩

theorem AllAnswered.drop (h : AllAnswered answered start now) : ∀ e ∈ now.drop start.length, answered e = true := by
  obtain ⟨new, rfl, all⟩ := h
  rwa [List.drop_left]

theorem LastUnanswered.drop (h : LastUnanswered answered start now) :
    ¬ ∀ e ∈ now.drop start.length, answered e = true := by
  obtain ⟨new, e, rfl, noAnswer⟩ := h
  rw [List.drop_left]
  exact fun all => Bool.false_ne_true (noAnswer.symm.trans (all e List.mem_concat_self))

theorem LastUnanswered.getLast? (h : LastUnanswered answered start now) :
    ∃ e, now.getLast? = some e ∧ answered e = false := by
  obtain ⟨new, e, rfl, noAnswer⟩ := h
  exact ⟨e, by rw [← List.append_assoc, List.getLast?_concat], noAnswer⟩

end

/-! ### The units -/

theorem Reader.byAnswers_rule (i : Instr) (start : List SourceEvent) :
    ReaderRule i (fun r => AllAnswered SourceEvent.answered start r.src.events)
      (fun r => AllAnswered SourceEvent.answered start r.src.events)
      (.byAnswers SourceEvent.answered (·.src.events) start) where
  weaken _ h := h
  filled r h := by
    unfold rEnsure
    split
    · rw [rRefill_eq]
      simp only
      split <;> rename_i answer <;> rw [answer]
      · exact h.concat rfl
      · exact h.concat rfl
      · exact h.concat rfl
      · exact h.concat_unanswered rfl
    · exact h
  taken _ h := h
  stored _ _ _ _ _ _ _ h := h
  rejected _ h := h
  closes _ r h _ := by
    rw [rCloseChannel_eq]
    simp only
    split <;> rename_i answer <;> rw [answer]
    · exact h.concat rfl
    · exact h.concat rfl
    · exact h.concat_unanswered rfl
  finished _ h := h

theorem Writer.byAnswers_rule (i : Instr) (start : List SinkEvent) :
    WriterRule i (fun w => AllAnswered SinkEvent.answered start w.snk.events)
      (fun w => AllAnswered SinkEvent.answered start w.snk.events)
      (.byAnswers SinkEvent.answered (·.snk.events) start) where
  weaken _ h := h
  put _ _ h := h
  flushed w h := by
    unfold wFlushIfFull
    split
    · rw [wFlush_eq]
      simp only
      split <;> rename_i answer <;> rw [answer]
      · exact h.concat rfl
      · exact h.concat rfl
      · exact h.concat_unanswered rfl
    · exact h
  fast v w h _ := by
    rw [wFastPath_eq]
    simp only
    split <;> rename_i answer <;> rw [answer]
    · exact h.concat rfl
    · exact h.concat rfl
    · exact h.concat_unanswered rfl
  rejected _ h := h
  closes _ w h _ := by
    rw [wCloseChannel_eq]
    simp only
    split <;> rename_i answer <;> rw [answer]
    · exact h.concat rfl
    · exact h.concat rfl
    · exact h.concat_unanswered rfl
  finished _ h := h

/-! ### Commands -/

/-- The two ways a command of unit `u` ends: with a response and all its transfers answered, or waiting for the last one. -/
inductive EndsByAnswers {ε : Type} (answered : ε → Bool) (start now : List ε) (u : UnitId) (t : State) : Prop
  | completed (response : t.response ≠ none) (all : AllAnswered answered start now)
  | unfinished (response : t.response = none) (marked : t.hung = some u) (last : LastUnanswered answered start now)

section
variable {ε : Type} {answered : ε → Bool} {start now : List ε} {u : UnitId} {t : State}

theorem EndsByAnswers.response_iff (h : EndsByAnswers answered start now u t) :
    t.response ≠ none ↔ ∀ e ∈ now.drop start.length, answered e = true := by
  cases h with
  | completed response all => exact iff_of_true response all.drop
  | unfinished response _ last => exact iff_of_false (not_not.2 response) last.drop

theorem EndsByAnswers.waits (h : EndsByAnswers answered start now u t) (silent : t.response = none) :
    t.hung = some u ∧ ∃ e, now.getLast? = some e ∧ answered e = false := by
  cases h with
  | completed response _ => exact absurd silent response
  | unfinished _ marked last => exact ⟨marked, last.getLast?⟩

end

theorem exec_reader_endsByAnswers {i : Instr} {s t : State} (unit : i.onWriter = false) (h : exec i s = .next t) :
    EndsByAnswers SourceEvent.answered s.br.src.events t.br.src.events .br t := by
  obtain ⟨st, v, rfl⟩ | ⟨v, r, all, rfl⟩ | ⟨e, r, all, rfl⟩ | ⟨r, last, rfl⟩ :=
    (Reader.byAnswers_rule i s.br.src.events).exec_cases unit h fun _ => .refl _ _
  · exact .completed (Option.some_ne_none _) (.refl _ _)
  · exact .completed (Option.some_ne_none _) all
  · exact .completed (Option.some_ne_none _) all
  · exact .unfinished rfl rfl last

theorem exec_writer_endsByAnswers {i : Instr} {s t : State} (unit : i.onWriter = true) (h : exec i s = .next t) :
    EndsByAnswers SinkEvent.answered s.bw.snk.events t.bw.snk.events .bw t := by
  obtain ⟨st, v, rfl⟩ | ⟨v, w, all, rfl⟩ | ⟨e, w, all, rfl⟩ | ⟨w, last, rfl⟩ :=
    (Writer.byAnswers_rule i s.bw.snk.events).exec_cases unit h fun _ => .refl _ _
  · exact .completed (Option.some_ne_none _) (.refl _ _)
  · exact .completed (Option.some_ne_none _) all
  · exact .completed (Option.some_ne_none _) all
  · exact .unfinished rfl rfl last

theorem exists_runReader_next (sem : Reader → Res Reader Word64) (s : State) : ∃ t, runReader sem s = .next t := by
  unfold runReader
  split
  · exact ⟨_, rfl⟩
  · cases sem s.br with
    | done v r | raise e r | hang r => exact ⟨_, rfl⟩

theorem exists_runWriter_next (sem : Writer → Res Writer Word64) (s : State) : ∃ t, runWriter sem s = .next t := by
  unfold runWriter
  split
  · exact ⟨_, rfl⟩
  · cases sem s.bw with
    | done v w | raise e w | hang w => exact ⟨_, rfl⟩

/-- The wrappers always answer, so only a count without a 64-bit form (R294) has no next state. -/
theorem exists_exec_next (i : Instr) {s : State} (reader : s.br.cnt < 2 ^ 64) (writer : s.bw.cnt < 2 ^ 64) :
    ∃ t, exec i s = .next t := by
  obtain ⟨unit, noCount⟩ | ⟨unit, noCount⟩ | rfl | rfl := Instr.kinds i
  · obtain ⟨sem, exec_eq⟩ := exec_reader i unit noCount
    rw [exec_eq]
    exact exists_runReader_next _ s
  · obtain ⟨sem, exec_eq⟩ := exec_writer i unit noCount
    rw [exec_eq]
    exact exists_runWriter_next _ s
  · exact ⟨_, runCounter_of_lt reader s⟩
  · exact ⟨_, runCounter_of_lt writer s⟩

/-- Settles O51: every command has a next state, and that its transfers are answered is kept up to the one it hangs at. -/
theorem commandsNeverStopTheMachine : Obligations.CommandsNeverStopTheMachine := by
  unfold Obligations.CommandsNeverStopTheMachine
  intro i s reader writer
  obtain ⟨t, run⟩ := exists_exec_next i reader writer
  have ofReader (unit : i.onWriter = false) := exec_reader_endsByAnswers unit run
  have ofWriter (unit : i.onWriter = true) := exec_writer_endsByAnswers unit run
  refine ⟨t, run, fun unit => (ofReader unit).response_iff, fun unit => (ofWriter unit).response_iff, ?_⟩
  cases unit : i.onWriter with
  | false =>
    rw [unitOfInstr_of_reader unit]
    exact (ofReader unit).waits
  | true =>
    rw [unitOfInstr_of_writer unit]
    exact (ofWriter unit).waits

end Sys2Proof.Machine
end

section
/-!
PROOF. Resets of a unit, without and with a new channel (R320, R322): the host takes one in every state, also while a command
is unfinished, and it changes the unit, the mark of that unit's unfinished command, and the host's list.
-/
namespace Sys2Proof.Machine

/-- A reset at the head of the list is taken whatever the machine is doing (R320). -/
theorem step_of_reset {s : State} {c : HostControl} {rest : List HostAction} (head : s.host = .control c :: rest)
    (reset : (HostAction.control c).isReset = true) : step s = hostControl c { s with host := rest } := by
  have taken : nextAction s = some (.control c, { s with host := rest }) := by simp [nextAction, head, reset]
  rw [step, taken]

theorem State.abandon_eq (s : State) (u : UnitId) :
    s.abandon u = { s with hung := if s.hung = some u then none else s.hung } := by
  unfold State.abandon
  split <;> rfl

/-- All that a reset of BR changes. -/
theorem State.resetReader_eq (s : State) : s.resetReader =
    { s with br := Reader.fresh s.br.src.newLife, hung := if s.hung = some .br then none else s.hung } :=
  State.abandon_eq _ .br

/-- All that a reset of BW changes. -/
theorem State.resetWriter_eq (s : State) : s.resetWriter =
    { s with bw := Writer.fresh s.bw.snk.newLife, hung := if s.hung = some .bw then none else s.hung } :=
  State.abandon_eq _ .bw

/-- Settles O10: BR is a fresh unit on the same source, whose history is put away. -/
theorem readerResetRestoresTheUnit : Obligations.ReaderResetRestoresTheUnit := by
  unfold Obligations.ReaderResetRestoresTheUnit
  intro s rest head
  have run := (step_of_reset head rfl).trans (congrArg Host.Outcome.next (State.resetReader_eq _))
  exact ⟨_, run, rfl, rfl, rfl, rfl, rfl, rfl, rfl, rfl, rfl, rfl, rfl, rfl, rfl, rfl, rfl, rfl⟩

/-- Settles O11: BW is a fresh unit on the same sink, whose history is put away. -/
theorem writerResetRestoresTheUnit : Obligations.WriterResetRestoresTheUnit := by
  unfold Obligations.WriterResetRestoresTheUnit
  intro s rest head
  have run := (step_of_reset head rfl).trans (congrArg Host.Outcome.next (State.resetWriter_eq _))
  exact ⟨_, run, rfl, rfl, rfl, rfl, rfl, rfl, rfl, rfl, rfl, rfl, rfl, rfl, rfl, rfl, rfl, rfl⟩

/-- Settles O12: the unit is reset on the channel just provided. -/
theorem providingAChannelStartsAFreshLife : Obligations.ProvidingAChannelStartsAFreshLife := by
  unfold Obligations.ProvidingAChannelStartsAFreshLife
  refine fun s rest => ⟨fun xs ys head => ⟨resetWindow, ?_⟩, fun xs ys head => ⟨resetWindow, ?_⟩⟩
  · exact (step_of_reset head rfl).trans (congrArg Host.Outcome.next (State.resetReader_eq _))
  · exact (step_of_reset head rfl).trans (congrArg Host.Outcome.next (State.resetWriter_eq _))

end Sys2Proof.Machine
end
